-- ==== Sys2Proof/Word.lean ====
section
/-! DEFINITION. The word types of the block, each with the width the spec gives it. A width that the spec
calls a parameter (00_scope.md section 4) is named in Config.lean. -/

namespace Sys2Proof

/-- One bit: a pixel, a pin level, a button level, an event flag. `true` is 1, `false` is 0 (log entry 14). -/
abbrev Bit := Bool

/-- A frame byte, a row mask, a byte on the wire (N_BITS = 8). -/
abbrev Byte := BitVec 8

/-- A host command word, CMD_W = 16 bits (rule R60). -/
abbrev CmdWord := BitVec 16

/-- A response, RESP_W = 16 bits (rule R60). -/
abbrev RespWord := BitVec 16

/-- A row period or a count of TICKs in one, RP_W = 12 bits (rules R18, R20, R21). -/
abbrev Period := BitVec 12

/-- An analog threshold, TH_W = 12 bits (rule R29). -/
abbrev Threshold := BitVec 12

/-- The free-running tick count, BZT_W = 16 bits (rule R23). -/
abbrev BuzzCount := BitVec 16

/-- An analog reading, ADC_W = 10 bits (rules R25, R31). -/
abbrev Reading := BitVec 10

/-- The active row index, 3 bits (rule R14). -/
abbrev RowIndex := BitVec 3

/-- A 4-bit index field of a command word (rules R64, R65, R66). -/
abbrev IndexField := BitVec 4

/-- The 8 by 8 grid of one-bit cells, `grid[i][k]`: position `i` first, display row `k` second (rule R10). -/
abbrev Grid := Vector (Vector Bit 8) 8

/-- The numbers 0..7 in rising order, for the loops `for i in 0..7` of the pseudocode. -/
def octet : List (Fin 8) := [0, 1, 2, 3, 4, 5, 6, 7]

/-- The digital channels 0..4 in rising order, for the loop of rule R102. -/
def digitalChannels : List (Fin 5) := [0, 1, 2, 3, 4]

end Sys2Proof
end

