-- ==== Sys2Proof/Config.lean ====
section
/-! DEFINITION. What is fixed for one machine: the implementation parameters of 00_scope.md section 4. The
reset values and the output-enable level are fields, so that a claim can quantify over them; the widths are
named numbers that the word types of Word.lean have (log entry 5). -/

namespace Sys2Proof

/-- The parameters that stay open as values (93_implementation_defined.md U8, U9). -/
structure Config where
  /-- RP_RESET, the reset value of RP and RPP. -/
  rpReset : Period
  /-- ATH_RESET, the reset value of ATH. -/
  athReset : Threshold
  /-- ANALOG_IDLE, the reset value of ASAMP. -/
  analogIdle : Reading
  /-- OE_DISABLE_LEVEL, the level of pin OE_N that disables the chips' outputs. -/
  oeDisableLevel : Bit
deriving DecidableEq, Repr

namespace Config

/-- The values the spec takes (00_scope.md section 4): 50, 300, 0 and level 1. -/
def lmrs : Config where
  rpReset := 50
  athReset := 300
  analogIdle := 0
  oeDisableLevel := true

/-- A configuration is legal when `RP_RESET >= 1` (rule R19). -/
abbrev wf (c : Config) : Prop := c.rpReset ≠ 0

/-- RP_W, the width of RP, RPP and TSRA. -/
abbrev rpW : Nat := 12
/-- TH_W, the width of ATH. -/
abbrev thW : Nat := 12
/-- BZT_W, the width of BZT. -/
abbrev bztW : Nat := 16
/-- ADC_W, the width of an analog reading. -/
abbrev adcW : Nat := 10

end Config
end Sys2Proof
end

