-- ==== Sys2Proof/Syntax.lean ====
section
/-! DEFINITION. The host commands (one constructor per row of spec/opcode_table.json), the events that act
on the block, and the lines of a written program (rules R62, R2, R75, R76). -/

namespace Sys2Proof

/-- The ten host commands of rule R62. Every operand is exactly the field its format gives it (rules R63 to
R67, R69), so every term is a well-formed command: an index above the legal range is a legal command whose
behaviour its own rule gives (rules R46, R69). -/
inductive Instr
  /-- SETPX x, y, v: write one pixel (rule R130). -/
  | setpx (x y : IndexField) (v : Bit)
  /-- COMMIT: pack the pixel buffer into the committed frame (rule R132). -/
  | commit
  /-- CLRALL: all pixels dark (rule R133). -/
  | clrall
  /-- FILLALL: all pixels lit (rule R134). -/
  | fillall
  /-- LDROW k, b: write one display row (rule R135). -/
  | ldrow (k : IndexField) (b : Byte)
  /-- WASPR ch: read and clear a latched event (rule R104). -/
  | waspr (ch : IndexField)
  /-- ISHELD ch: is the button down now (rule R106). -/
  | isheld (ch : IndexField)
  /-- ALEVEL: the analog reading now (rule R108). -/
  | alevel
  /-- SETTHR t: write the analog threshold (rule R109). -/
  | setthr (t : Threshold)
  /-- SETRP p: write the pending row period (rule R120). -/
  | setrp (p : Period)
deriving DecidableEq, Repr

/-- The step that a reset finds in progress and abandons (rule R170; log entry 18). -/
inductive Abandoned
  /-- The reset falls between two steps. -/
  | nothing
  /-- A TICK, after its first `n` pin writes; after all of them where it makes fewer. -/
  | tick (n : Nat)
  /-- A host command, before it ends. -/
  | command (i : Instr)
deriving DecidableEq, Repr

/-- What can happen to the block: the steps of its three agents (rule R2) and the reset event (rule R170). -/
inductive Event
  /-- One event on input TICK (rule R153). -/
  | tick
  /-- One word on the command port (rule R60). -/
  | cmd (w : CmdWord)
  /-- A TICK event and a command word that arrive together: the TICK goes first (rules R4, R155). -/
  | tickAndCmd (w : CmdWord)
  /-- The environment sets input BTN[k]: 1 idle, 0 pressed (rules R2, R76). -/
  | btn (k : Fin 5) (v : Bit)
  /-- The environment sets the analog reading (rules R2, R76). -/
  | adc (a : Reading)
  /-- Input RESET is asserted, with this step in progress (rule R170). -/
  | reset (a : Abandoned)
deriving DecidableEq, Repr

/-- One line of a written program: a command, the pseudo-instruction LDFRM, or a directive that stands for
steps of another agent (rules R75, R76). The operands are the numerals as written, so they may be too large:
WellFormed.lean checks them. -/
inductive Line
  | setpx (x y v : Nat)
  | commit
  | clrall
  | fillall
  | ldrow (k b : Nat)
  | waspr (ch : Nat)
  | isheld (ch : Nat)
  | alevel
  | setthr (t : Nat)
  | setrp (p : Nat)
  /-- LDFRM b0, ..., b7 (rules R76, R136). -/
  | ldfrm (b0 b1 b2 b3 b4 b5 b6 b7 : Nat)
  /-- `TICK n`: `n` TICK events in a row. -/
  | tick (n : Nat)
  /-- `BTN k, v`: the level of input BTN[k] until the next `BTN k`. -/
  | btn (k v : Nat)
  /-- `ADC a`: the analog reading until the next `ADC`. -/
  | adc (a : Nat)
  /-- `RESET`: the reset event. -/
  | reset
  /-- `.word w`: a raw command word (95_test_vectors.md, program P7). -/
  | word (w : Nat)
deriving DecidableEq, Repr

/-- LDFRM's eight commands, `LDROW 0, b0` to `LDROW 7, b7` in that order (rules R76, R136). -/
def ldfrm (b : Vector Byte 8) : List Instr :=
  octet.map fun k => .ldrow (BitVec.ofNat 4 k.val) b[k]

end Sys2Proof
end

