-- ==== Sys2Proof/WellFormed.lean ====
section
/-! DEFINITION. Which written lines are well formed: every numeral fits the field or input it is written for.
A coordinate that does not fit 4 bits cannot be written in a command word (rule R131). Terms of `Instr` carry
their field widths in their types and need no check. -/

namespace Sys2Proof

/-- `n` can be held in `w` bits. -/
abbrev fits (w n : Nat) : Bool := decide (n < 2 ^ w)

/-- Every numeral of the line fits its field (rules R63 to R67) or its input (rules R31, R76). -/
def Line.wf : Line → Bool
  | .setpx x y v => fits 4 x && fits 4 y && fits 1 v
  | .commit | .clrall | .fillall | .alevel | .tick _ | .reset => true
  | .ldrow k b => fits 4 k && fits 8 b
  | .waspr ch | .isheld ch => fits 4 ch
  | .setthr t => fits 12 t
  | .setrp p => fits 12 p
  | .ldfrm b0 b1 b2 b3 b4 b5 b6 b7 =>
    fits 8 b0 && fits 8 b1 && fits 8 b2 && fits 8 b3 && fits 8 b4 && fits 8 b5 && fits 8 b6 && fits 8 b7
  | .btn k v => decide (k < 5) && fits 1 v
  | .adc a => fits Config.adcW a
  | .word w => fits 16 w

/-- A program is well formed when each of its lines is. -/
def programWf (p : List Line) : Bool := p.all Line.wf

end Sys2Proof
end

