-- ==== Sys2Proof/Decode.lean ====
section
/-! DEFINITION. The command decoder (rules R62 to R69, R72), total on every 16-bit word, and the encoder
written from the same formats; the opcode map of rule R68 as a table; the written form of a command (rule
R75) and the words of a program line. -/

namespace Sys2Proof

/-! ### Fields of a command word (rules R62 to R67, R69) -/

/-- The opcode, bits 15:12 (rule R62). -/
def opField (w : CmdWord) : BitVec 4 := w.extractLsb' 12 4
/-- `x`, `k` and `ch`, bits 11:8 (rules R64, R65, R66). -/
def indexHi (w : CmdWord) : IndexField := w.extractLsb' 8 4
/-- `y`, bits 7:4 (rule R64). -/
def indexLo (w : CmdWord) : IndexField := w.extractLsb' 4 4
/-- The must-be-zero bits 3:1 of format P (rule R64). -/
def zeroP (w : CmdWord) : BitVec 3 := w.extractLsb' 1 3
/-- `v`, bit 0 (rule R64). -/
def valueBit (w : CmdWord) : Bit := w.getLsbD 0
/-- `b`, bits 7:0 of format B, and the must-be-zero bits 7:0 of format C (rules R65, R66). -/
def lowByte (w : CmdWord) : Byte := w.extractLsb' 0 8
/-- `imm`, bits 11:0 of format I, and the must-be-zero bits 11:0 of format Z (rules R63, R67). -/
def lowImm (w : CmdWord) : BitVec 12 := w.extractLsb' 0 12

/-! ### The decoder -/

/-- Why a word is reserved (rule R72). -/
inductive Reserved
  /-- The opcode is 0x0 or 0xB to 0xF. -/
  | opcode (op : BitVec 4)
  /-- A field that must be zero is not, under an opcode in use. -/
  | mustBeZero (op : BitVec 4)
deriving DecidableEq, Repr

/-- The command when the must-be-zero field of its format is zero; reserved otherwise (rule R72). -/
def whenZero {n : Nat} (op : BitVec 4) (field : BitVec n) (i : Instr) : Except Reserved Instr :=
  if field = 0 then .ok i else .error (.mustBeZero op)

/-- The command a word stands for, or why it is reserved (rules R62, R68, R69, R72). -/
def decode (w : CmdWord) : Except Reserved Instr :=
  match opField w with
  | 0x1#4 => whenZero 0x1 (zeroP w) (.setpx (indexHi w) (indexLo w) (valueBit w))
  | 0x2#4 => whenZero 0x2 (lowImm w) .commit
  | 0x3#4 => whenZero 0x3 (lowImm w) .clrall
  | 0x4#4 => whenZero 0x4 (lowImm w) .fillall
  | 0x5#4 => .ok (.ldrow (indexHi w) (lowByte w))
  | 0x6#4 => whenZero 0x6 (lowByte w) (.waspr (indexHi w))
  | 0x7#4 => whenZero 0x7 (lowByte w) (.isheld (indexHi w))
  | 0x8#4 => whenZero 0x8 (lowImm w) .alevel
  | 0x9#4 => .ok (.setthr (lowImm w))
  | 0xA#4 => .ok (.setrp (lowImm w))
  | op => .error (.opcode op)

/-- The command read from the low `nbits` bits of `w`, as spec/opcode_table.json numbers them. A command is
one 16-bit word, so a longer request names no command. -/
def decodeTableWord (nbits w : Nat) : Option Instr :=
  if nbits ≤ 16 then (decode (BitVec.ofNat 16 (w % 2 ^ nbits))).toOption else none

/-! ### The encoder -/

/-- The word of a command, its fields placed as rules R63 to R67 place them, high bits first. -/
def encode : Instr → CmdWord
  | .setpx x y v => 0x1#4 ++ x ++ y ++ 0#3 ++ BitVec.ofBool v
  | .commit => 0x2#4 ++ 0#12
  | .clrall => 0x3#4 ++ 0#12
  | .fillall => 0x4#4 ++ 0#12
  | .ldrow k b => 0x5#4 ++ k ++ b
  | .waspr ch => 0x6#4 ++ ch ++ 0#8
  | .isheld ch => 0x7#4 ++ ch ++ 0#8
  | .alevel => 0x8#4 ++ 0#12
  | .setthr t => 0x9#4 ++ t
  | .setrp p => 0xA#4 ++ p

/-! ### The opcode map of rule R68 -/

/-- One row of the map: a word `w` is the command when `w &&& mask = value`. -/
structure MapRow where
  mnemonic : String
  mask : CmdWord
  value : CmdWord
deriving DecidableEq, Repr

/-- The rows of rule R68. The decoder is written from the formats instead, and a law says that the two agree. -/
def opcodeMap : List MapRow :=
  [⟨"SETPX", 0xF00E, 0x1000⟩, ⟨"COMMIT", 0xFFFF, 0x2000⟩, ⟨"CLRALL", 0xFFFF, 0x3000⟩,
   ⟨"FILLALL", 0xFFFF, 0x4000⟩, ⟨"LDROW", 0xF000, 0x5000⟩, ⟨"WASPR", 0xF0FF, 0x6000⟩,
   ⟨"ISHELD", 0xF0FF, 0x7000⟩, ⟨"ALEVEL", 0xFFFF, 0x8000⟩, ⟨"SETTHR", 0xF000, 0x9000⟩,
   ⟨"SETRP", 0xF000, 0xA000⟩]

/-- The word is the row's command. -/
abbrev MapRow.Matches (r : MapRow) (w : CmdWord) : Prop := w &&& r.mask = r.value

/-- The mnemonic of a command (rule R62). -/
def Instr.mnemonic : Instr → String
  | .setpx _ _ _ => "SETPX"
  | .commit => "COMMIT"
  | .clrall => "CLRALL"
  | .fillall => "FILLALL"
  | .ldrow _ _ => "LDROW"
  | .waspr _ => "WASPR"
  | .isheld _ => "ISHELD"
  | .alevel => "ALEVEL"
  | .setthr _ => "SETTHR"
  | .setrp _ => "SETRP"

/-! ### Written form (rule R75) and the words of a line (rule R76) -/

/-- Operands comma separated, decimal (rule R75). -/
def writtenOperands (ns : List Nat) : String := String.intercalate ", " (ns.map toString)

/-- A line as it is written: the mnemonic, then its operands (rules R75, R76). -/
def Line.written : Line → String
  | .setpx x y v => "SETPX " ++ writtenOperands [x, y, v]
  | .commit => "COMMIT"
  | .clrall => "CLRALL"
  | .fillall => "FILLALL"
  | .ldrow k b => "LDROW " ++ writtenOperands [k, b]
  | .waspr ch => "WASPR " ++ writtenOperands [ch]
  | .isheld ch => "ISHELD " ++ writtenOperands [ch]
  | .alevel => "ALEVEL"
  | .setthr t => "SETTHR " ++ writtenOperands [t]
  | .setrp p => "SETRP " ++ writtenOperands [p]
  | .ldfrm b0 b1 b2 b3 b4 b5 b6 b7 => "LDFRM " ++ writtenOperands [b0, b1, b2, b3, b4, b5, b6, b7]
  | .tick n => "TICK " ++ writtenOperands [n]
  | .btn k v => "BTN " ++ writtenOperands [k, v]
  | .adc a => "ADC " ++ writtenOperands [a]
  | .reset => "RESET"
  | .word w => ".word " ++ writtenOperands [w]

/-- The commands of a line: one for a command line, eight for LDFRM, none for a directive (rule R76). -/
def Line.instrs : Line → List Instr
  | .setpx x y v => [.setpx (BitVec.ofNat 4 x) (BitVec.ofNat 4 y) (v == 1)]
  | .commit => [.commit]
  | .clrall => [.clrall]
  | .fillall => [.fillall]
  | .ldrow k b => [.ldrow (BitVec.ofNat 4 k) (BitVec.ofNat 8 b)]
  | .waspr ch => [.waspr (BitVec.ofNat 4 ch)]
  | .isheld ch => [.isheld (BitVec.ofNat 4 ch)]
  | .alevel => [.alevel]
  | .setthr t => [.setthr (BitVec.ofNat 12 t)]
  | .setrp p => [.setrp (BitVec.ofNat 12 p)]
  | .ldfrm b0 b1 b2 b3 b4 b5 b6 b7 =>
    Sys2Proof.ldfrm #v[BitVec.ofNat 8 b0, BitVec.ofNat 8 b1, BitVec.ofNat 8 b2, BitVec.ofNat 8 b3,
      BitVec.ofNat 8 b4, BitVec.ofNat 8 b5, BitVec.ofNat 8 b6, BitVec.ofNat 8 b7]
  | .tick _ | .btn _ _ | .adc _ | .reset | .word _ => []

/-- The steps of the other agents that a directive stands for, and the raw word of `.word` (rule R76). -/
def Line.directive : Line → List Event
  | .tick n => List.replicate n .tick
  | .btn k v => if h : k < 5 then [.btn ⟨k, h⟩ (v == 1)] else []
  | .adc a => [.adc (BitVec.ofNat 10 a)]
  | .reset => [.reset .nothing]
  | .word w => [.cmd (BitVec.ofNat 16 w)]
  | .setpx _ _ _ | .commit | .clrall | .fillall | .ldrow _ _ | .waspr _ | .isheld _ | .alevel | .setthr _
  | .setrp _ | .ldfrm _ _ _ _ _ _ _ _ => []

/-- The events a line stands for, in order (rules R75, R76). On a well-formed line no numeral is cut. -/
def Line.events (l : Line) : List Event := l.instrs.map (fun i => .cmd (encode i)) ++ l.directive

/-- The events of a program, top to bottom (rule R75). -/
def programEvents (p : List Line) : List Event := p.flatMap Line.events

end Sys2Proof
end

