-- ==== Sys2Proof/Machine/State.lean ====
section
/-! DEFINITION. The state as plain data (10_state.md), the reasons a step can stop, and the state after reset
(rule R33). -/

namespace Sys2Proof.Machine

/-! ### Output pins (rule R30) -/

/-- The five output pins. -/
inductive Pin
  | data | clkCol | clkRow | latch | oeN
deriving DecidableEq, Repr

/-- The five output pin registers (rule R30). -/
structure Pins where
  data : Bit
  clkCol : Bit
  clkRow : Bit
  latch : Bit
  oeN : Bit
deriving DecidableEq, Repr

/-- One entry of the pin trace: `pin P <- v` (rule R6). -/
structure PinWrite where
  pin : Pin
  level : Bit
deriving DecidableEq, Repr

/-- One entry of the call log (rule R6). -/
inductive Call
  /-- `COL(b)`, an SCOL that sent `b`. -/
  | col (b : Byte)
  /-- `ROW(b)`, an SROW that sent `b`. -/
  | row (b : Byte)
deriving DecidableEq, Repr

/-- The registers of the two external chips, the reference receiver (rules R86, R87). They are outside the
block and no rule of the block reads them. -/
structure Chips where
  csr : Byte
  colOut : Byte
  rsr : Byte
  rowOut : Byte
deriving DecidableEq, Repr

/-- The frame store: (address, byte) pairs in canonical form (Ops.lean, `Memory.wf`). An address that is not
listed holds 0x00, the reset contents of CF (rule R33). -/
abbrev Memory := List Host.Cell

/-! ### The state -/

/-- Everything the spec gives the machine, and the events yet to happen. -/
@[ext]
structure State where
  /-- PB, the pixel buffer, `pb[i][k]` (rule R10). -/
  pb : Grid
  /-- CF, the committed frame (rules R11, R40). -/
  cf : Memory
  /-- ARI, the active row index (rule R14). -/
  ari : RowIndex
  /-- ARM, the active row mask (rule R15). -/
  arm : Byte
  /-- TSRA, TICKs since the last row advance (rule R18). -/
  tsra : Period
  /-- RP, the row period in force (rule R20). -/
  rp : Period
  /-- RPP, the pending row period (rule R21). -/
  rpp : Period
  /-- BZT, the free-running tick count, driven on port BUZZ_TICKS (rule R23). -/
  bzt : BuzzCount
  /-- RAW, the last sampled button levels (rule R24). -/
  raw : Vector Bit 5
  /-- ASAMP, the last sampled analog reading (rule R25). -/
  asamp : Reading
  /-- LE, the latched events (rule R26). -/
  le : Vector Bit 6
  /-- ATH, the analog threshold (rule R29). -/
  ath : Threshold
  /-- The output pin registers (rule R30). -/
  pins : Pins
  /-- The pin trace, oldest entry first (rule R6a). -/
  pinTrace : List PinWrite
  /-- The call log, oldest entry first (rule R6b). -/
  callLog : List Call
  /-- RESP: the response of the last host command, none when it returns no value (rules R60, R70). -/
  resp : Option RespWord
  /-- The responses given so far, oldest first (rule R6c). -/
  responses : List RespWord
  /-- The external chips (rules R86, R87). -/
  chips : Chips
  /-- The levels on inputs BTN now, the environment's (rules R2, R31). -/
  btn : Vector Bit 5
  /-- The reading on input ADC now, the environment's (rules R2, R31). -/
  adc : Reading
  /-- The model's own field: what happens next, in order (rules R2, R4; log entry 1). -/
  events : List Event
deriving DecidableEq, Repr

/-! ### Why a step can stop -/

/-- The block raises no exception: there is no fault to name (rule R150). -/
inductive Fault
deriving DecidableEq, Repr

/-- Why a step is refused. -/
inductive Refusal
  /-- Raised by an arm of `exec` for a command with no meaning yet; none is left. Safe. -/
  | notModelled (mnemonic : String)
  /-- Raised by the step for a reserved command word: "A model should *refuse* a reserved word" (rule R72).
  Safe: the hardware goes on, ignoring the word (`hardwareStep`). -/
  | reservedWord (w : CmdWord) (why : Reserved)
deriving DecidableEq, Repr

/-! ### Reset -/

/-- The machine right after power-on reset: rule R33's table, with the parameters of `Config.lmrs`. What a
reset does not fix (rule R33's last sentence) has the values of log entry 2: the chips hold 0x00, every
button is idle, the reading is 0. No event is waiting. -/
def State.reset : State where
  pb := Vector.replicate 8 (Vector.replicate 8 false)
  cf := []
  ari := 0
  arm := 0x80
  tsra := 0
  rp := Config.lmrs.rpReset
  rpp := Config.lmrs.rpReset
  bzt := 0
  raw := Vector.replicate 5 true
  asamp := Config.lmrs.analogIdle
  le := Vector.replicate 6 false
  ath := Config.lmrs.athReset
  pins := ⟨false, false, false, false, Config.lmrs.oeDisableLevel⟩
  pinTrace := []
  callLog := []
  resp := none
  responses := []
  chips := ⟨0, 0, 0, 0⟩
  btn := Vector.replicate 5 true
  adc := 0
  events := []

end Sys2Proof.Machine
end

