-- ==== Sys2Proof/Machine/Ops.lean ====
section
/-! DEFINITION. The named operations over State: the two stores (20_memory.md), the registers, the output pins
with the reference receiver behind them (rules R30, R86, R87), the logs and responses (rules R6, R70), and the
reset event (rule R170). The block raises no exception (rule R150); its one interrupt, TICK, saves nothing and
has no return (rules R156, R157), so taking it is `State.tick` (Tick.lean) and nothing stands beside it here. -/

namespace Sys2Proof.Machine

/-! ### The frame store (rules R40, R41) -/

namespace Memory

/-- What an address that is not listed holds: CF's reset contents (rule R33). -/
def blank : Byte := 0x00

/-- `MemRead(k, 1)` on the list. -/
def read : Memory → Nat → Byte
  | [], _ => blank
  | (a, b) :: m, k => if a = k then b else read m k

/-- Takes out what is listed at an address. -/
def clear (m : Memory) (k : Nat) : Memory := m.filter fun c => c.1 ≠ k

/-- Lists a byte at an address, before the first higher address. -/
def insert : Memory → Nat → Byte → Memory
  | [], k, v => [(k, v)]
  | (a, b) :: m, k, v => if k < a then (k, v) :: (a, b) :: m else (a, b) :: insert m k v

/-- `MemWrite(k, 1, v)` on the list: a blank byte is not listed, so the form stays canonical. -/
def write (m : Memory) (k : Nat) (v : Byte) : Memory :=
  if v = blank then clear m k else insert (clear m k) k v

/-- Addresses strictly rising, none below `lo` and none above 7 (rule R40), and no cell that holds the blank
byte. -/
def wfFrom : Nat → Memory → Bool
  | _, [] => true
  | lo, (a, b) :: m => decide (lo ≤ a) && decide (a < 8) && decide (b ≠ blank) && wfFrom (a + 1) m

/-- The canonical form of the frame store. -/
def wf (m : Memory) : Bool := wfFrom 0 m

end Memory

namespace State

/-! ### Register updates, one each -/

/-- Writes PB whole. -/
def setPb (s : State) (g : Grid) : State := { s with pb := g }
/-- Writes the frame store whole. -/
def setCf (s : State) (m : Memory) : State := { s with cf := m }
/-- Writes ARI and ARM, which advance together (rule R17). -/
def setScan (s : State) (i : RowIndex) (m : Byte) : State := { s with ari := i, arm := m }
/-- Writes TSRA. -/
def setTsra (s : State) (n : Period) : State := { s with tsra := n }
/-- Writes RP. -/
def setRp (s : State) (p : Period) : State := { s with rp := p }
/-- Writes RPP. -/
def setRpp (s : State) (p : Period) : State := { s with rpp := p }
/-- Writes BZT. -/
def setBzt (s : State) (n : BuzzCount) : State := { s with bzt := n }
/-- Writes RAW[k]. -/
def setRaw (s : State) (k : Fin 5) (n : Bit) : State := { s with raw := s.raw.set k n }
/-- Writes ASAMP. -/
def setAsamp (s : State) (a : Reading) : State := { s with asamp := a }
/-- Writes LE[k]. -/
def setLe (s : State) (k : Fin 6) (v : Bit) : State := { s with le := s.le.set k v }
/-- Writes ATH. -/
def setAth (s : State) (t : Threshold) : State := { s with ath := t }
/-- Sets the level of input BTN[k] (the environment, rule R2). -/
def setBtn (s : State) (k : Fin 5) (v : Bit) : State := { s with btn := s.btn.set k v }
/-- Sets the analog reading (the environment, rule R2). -/
def setAdc (s : State) (a : Reading) : State := { s with adc := a }
/-- Sets what happens next. -/
def setEvents (s : State) (es : List Event) : State := { s with events := es }

/-! ### The stores -/

/-- `MemRead(k, 1)` (rule R41). -/
def memRead (s : State) (k : Fin 8) : Byte := Memory.read s.cf k
/-- `MemWrite(k, 1, v)` (rule R41). -/
def memWrite (s : State) (k : Fin 8) (v : Byte) : State := s.setCf (Memory.write s.cf k v)

/-- The frame address that an active row index names. -/
def rowOf (i : RowIndex) : Fin 8 := ⟨i.toNat, i.isLt⟩

/-- The cell `PB[i][k]` (rule R10). -/
def pixel (s : State) (i k : Fin 8) : Bit := s.pb[i][k]

/-- `PB[i][k] <- v`. -/
def setPixel (s : State) (i k : Fin 8) (v : Bit) : State := s.setPb (s.pb.set i (s.pb[i].set k v))

/-- `for i in 0..7: PB[i][k] <- b[i]` (rule R135). -/
def setPixelRow (s : State) (k : Fin 8) (b : Byte) : State :=
  octet.foldl (fun s i => s.setPixel i k (b.getLsbD i)) s

/-- All 64 cells of PB to `v` (rules R133, R134). -/
def setAllPixels (s : State) (v : Bit) : State := s.setPb (Vector.replicate 8 (Vector.replicate 8 v))

/-- The byte whose bit `i` is `PB[i][k]`, position 7 leftmost (rules R43, R132). -/
def packedRow (s : State) (k : Fin 8) : Byte :=
  BitVec.ofBool (s.pixel 7 k) ++ BitVec.ofBool (s.pixel 6 k) ++ BitVec.ofBool (s.pixel 5 k) ++
  BitVec.ofBool (s.pixel 4 k) ++ BitVec.ofBool (s.pixel 3 k) ++ BitVec.ofBool (s.pixel 2 k) ++
  BitVec.ofBool (s.pixel 1 k) ++ BitVec.ofBool (s.pixel 0 k)

/-! ### Logs and responses -/

/-- `log E` (rule R6b). -/
def logCall (s : State) (e : Call) : State := { s with callLog := s.callLog ++ [e] }

/-- `resp <- v`: the response of the command being executed, also appended to the responses (rules R6c, R70). -/
def respond (s : State) (v : RespWord) : State :=
  { s with resp := some v, responses := s.responses ++ [v] }

/-- The command being executed has no response (rule R70). -/
def noResponse (s : State) : State := { s with resp := none }

/-- The output port BUZZ_TICKS carries BZT (rules R23, R160). -/
def buzzTicks (s : State) : BuzzCount := s.bzt

end State

/-! ### Pins and the reference receiver -/

/-- The level a pin register holds. -/
def Pins.get (r : Pins) : Pin → Bit
  | .data => r.data
  | .clkCol => r.clkCol
  | .clkRow => r.clkRow
  | .latch => r.latch
  | .oeN => r.oeN

/-- The pin registers after `pin p <- v` (rule R30). -/
def Pins.set (r : Pins) (p : Pin) (v : Bit) : Pins :=
  match p with
  | .data => { r with data := v }
  | .clkCol => { r with clkCol := v }
  | .clkRow => { r with clkRow := v }
  | .latch => { r with latch := v }
  | .oeN => { r with oeN := v }

/-- A pin write that takes a pin from 0 to 1 (rule R86). -/
def Pins.rises (r : Pins) (w : PinWrite) : Bool := !r.get w.pin && w.level

/-- `{DATA, r[7:1]}`: the bit on DATA enters at bit 7 (rules R86, R87). -/
def shiftIn (d : Bit) (r : Byte) : Byte := BitVec.ofBool d ++ r.extractLsb' 1 7

/-- What a rising edge of a pin does to the chips: CLK_COL shifts the column chip, CLK_ROW the row chip, LATCH
copies both shift registers to the outputs (rules R86, R87). -/
def Chips.edge (c : Chips) (p : Pin) (d : Bit) : Chips :=
  match p with
  | .clkCol => { c with csr := shiftIn d c.csr }
  | .clkRow => { c with rsr := shiftIn d c.rsr }
  | .latch => { c with colOut := c.csr, rowOut := c.rsr }
  | .data | .oeN => c

namespace State

/-- `pin P <- v`: the register, the trace (even when the level does not change), and the chips if it is a
rising edge (00_scope.md section 6.2; rules R30, R86, R87). -/
def pinWrite (s : State) (w : PinWrite) : State :=
  { s with
    pins := s.pins.set w.pin w.level
    pinTrace := s.pinTrace ++ [w]
    chips := if s.pins.rises w then s.chips.edge w.pin s.pins.data else s.chips }

/-- A sequence of pin writes, one at a time in order. -/
def pinWrites (s : State) (ws : List PinWrite) : State := ws.foldl pinWrite s

/-- The pixel at position `i` of display row `k` is lit: outputs enabled, row bit and column bit (rule R88). -/
def lit (c : Config) (s : State) (i k : Fin 8) : Bool :=
  (s.pins.oeN != c.oeDisableLevel) && s.chips.rowOut.getLsbD (7 - k.val) && s.chips.colOut.getLsbD i.val

/-! ### Reset -/

/-- The reset event: every register takes its value of rule R33 at once, the pin trace and the call log are
emptied (rule R170). What is outside the block stays: the chips (rule R171), the environment, the events yet to
happen; the responses already given stay too (log entries 7, 11). What a step in progress has done to the chips
by then is `State.abandon` (Tick.lean). -/
def resetBlock (c : Config) (s : State) : State :=
  { State.reset with
    rp := c.rpReset
    rpp := c.rpReset
    asamp := c.analogIdle
    ath := c.athReset
    pins := ⟨false, false, false, false, c.oeDisableLevel⟩
    responses := s.responses
    chips := s.chips
    btn := s.btn
    adc := s.adc
    events := s.events }

end State

/-! ### Rotation -/

/-- `ror8(m) = (m >> 1) | ((m & 1) << 7)` (00_scope.md section 6.1). -/
def ror8 (m : Byte) : Byte := (m >>> 1) ||| ((m &&& 1) <<< 7)

end Sys2Proof.Machine
end

