-- ==== Sys2Proof/Machine/Operands.lean ====
section
/-! DEFINITION. The operand forms of the host commands (rules R46, R69, R121) and the width of a response
(rule R70). -/

namespace Sys2Proof.Machine

/-- An index field as a pixel position or display row: legal 0..7, none in 8..15 (rules R46, R130, R135). -/
def pixelIndex (x : IndexField) : Option (Fin 8) :=
  if h : x.toNat < 8 then some ⟨x.toNat, h⟩ else none

/-- A channel field as a channel: legal 0..5, none in 6..15 (rules R104, R105). -/
def channel (ch : IndexField) : Option (Fin 6) :=
  if h : ch.toNat < 6 then some ⟨ch.toNat, h⟩ else none

/-- A channel field as a digital channel: 0..4, none for the analog channel 5 and in 6..15 (rules R106, R107). -/
def digitalChannel (ch : IndexField) : Option (Fin 5) :=
  if h : ch.toNat < 5 then some ⟨ch.toNat, h⟩ else none

/-- The analog channel, 5 (10_state.md section 6). -/
def analogChannel : Fin 6 := 5

/-- A digital channel among the six channels. -/
def digitalAsChannel (k : Fin 5) : Fin 6 := k.castSucc

/-- The period SETRP stores: 0 becomes 1 (rule R121). -/
def clampPeriod (p : Period) : Period := if p = 0 then 1 else p

/-- `zext_16` of a one-bit answer (rule R70). -/
def zext16Bit (b : Bit) : RespWord := (BitVec.ofBool b).setWidth 16

/-- `zext_16` of an analog reading (rule R70). -/
def zext16Reading (a : Reading) : RespWord := a.setWidth 16

end Sys2Proof.Machine
end

