-- ==== Sys2Proof/Machine/Flags.lean ====
section
/-! DEFINITION. The conditions under which SAMPLE sets a latched event, the block's only status flags (rules
R26, R100, R101). -/

namespace Sys2Proof.Machine

/-- The digital condition of rule R100: the level changed and the new level is the active one, 0. -/
def pressEdge (old new : Bit) : Bool := (new != old) && (new == false)

/-- The analog condition of rule R101, `a >= ASAMP + ATH` on unbounded integers. -/
def riseReached (asamp : Reading) (ath : Threshold) (a : Reading) : Bool :=
  decide (asamp.toNat + ath.toNat ≤ a.toNat)

/-- A sticky flag: set by the condition, never cleared by it (rule R27). -/
def State.latchWhen (s : State) (cond : Bool) (k : Fin 6) : State := if cond then s.setLe k true else s

end Sys2Proof.Machine
end

