-- ==== Sys2Proof/Machine/Serial.lean ====
section
/-! DEFINITION. The serial protocol driver: SCOL and SROW as sequences of pin writes (rules R71, R80, R83). -/

namespace Sys2Proof.Machine

/-- The pin writes of `SCOL b` (rule R80), wire format W-COL. -/
def colFrame (c : Config) (b : Byte) : List PinWrite :=
  [⟨.oeN, c.oeDisableLevel⟩]
    ++ octet.flatMap (fun i => [⟨.clkCol, false⟩, ⟨.data, b.getLsbD i⟩, ⟨.clkCol, true⟩])
    ++ [⟨.latch, true⟩, ⟨.latch, false⟩, ⟨.oeN, !c.oeDisableLevel⟩]

/-- The pin writes of `SROW b` (rule R83), wire format W-ROW. -/
def rowFrame (b : Byte) : List PinWrite :=
  [⟨.latch, false⟩]
    ++ octet.flatMap (fun i => [⟨.data, b.getLsbD i⟩, ⟨.clkRow, true⟩, ⟨.clkRow, false⟩])
    ++ [⟨.latch, true⟩, ⟨.latch, false⟩]

namespace State

/-- SCOL b: send a byte to the column sink chip (rule R80). -/
def scol (c : Config) (b : Byte) (s : State) : State := (s.logCall (.col b)).pinWrites (colFrame c b)

/-- SROW b: send a byte to the row-select chip (rule R83). -/
def srow (b : Byte) (s : State) : State := (s.logCall (.row b)).pinWrites (rowFrame b)

end State
end Sys2Proof.Machine
end

