-- ==== Sys2Proof/Machine/Scanner.lean ====
section
/-! DEFINITION. The row scanner: ADVROW (rule R90). -/

namespace Sys2Proof.Machine

/-- ADVROW: send the current row's byte, then its mask, then step to the next row (rules R90, R91). -/
def State.advRow (c : Config) (s : State) : State :=
  let d := s.memRead (State.rowOf s.ari)
  let m := s.arm
  let s := (s.scol c d).srow m
  s.setScan (s.ari + 1) (ror8 s.arm)

end Sys2Proof.Machine
end

