-- ==== Sys2Proof/Machine/Sampler.lean ====
section
/-! DEFINITION. The input sampler: SAMPLE and its two parts (rules R100 to R102). -/

namespace Sys2Proof.Machine.State

/-- SAMPLE_DIG(k, n) (rule R100). -/
def sampleDig (k : Fin 5) (n : Bit) (s : State) : State :=
  (s.latchWhen (pressEdge s.raw[k] n) (digitalAsChannel k)).setRaw k n

/-- SAMPLE_ANA(a) (rule R101). -/
def sampleAna (a : Reading) (s : State) : State :=
  (s.latchWhen (riseReached s.asamp s.ath a) analogChannel).setAsamp a

/-- SAMPLE: one snapshot of all inputs, then the six channels (rule R102). -/
def sample (s : State) : State :=
  let n := s.btn
  let a := s.adc
  (digitalChannels.foldl (fun s k => s.sampleDig k n[k]) s).sampleAna a

end Sys2Proof.Machine.State
end

