-- ==== Sys2Proof/Machine/Tick.lean ====
section
/-! DEFINITION. The tick dispatcher: TICK (rules R115, R119), the one interrupt of the block, which saves
nothing and changes no mode (rules R153, R156, R157). -/

namespace Sys2Proof.Machine.State

/-- Step 3 of a TICK, the row-advance check: at TSRA = RP one ADVROW runs, TSRA is set to 0 and the pending
period comes into force (rule R115). -/
def rowAdvanceCheck (c : Config) (s : State) : State :=
  if s.tsra = s.rp then
    let s := (s.advRow c).setTsra 0
    s.setRp s.rpp
  else s

/-- Step 4 of a TICK, the sample check, with the TSRA and RP that step 3 left (rules R115, R119). -/
def sampleCheck (s : State) : State := if s.tsra = s.rp / 2 then s.sample else s

/-- TICK: count BZT, count TSRA, row-advance check, sample check, in this order (rules R115, R119). -/
def tick (c : Config) (s : State) : State :=
  let s := s.setBzt (s.bzt + 1)
  let s := s.setTsra (s.tsra + 1)
  (s.rowAdvanceCheck c).sampleCheck

/-- The pin writes of the next TICK, in order: those of its ADVROW, none when the row-advance check does not match
(rules R80, R83, R90, R115). -/
def tickWrites (c : Config) (s : State) : List PinWrite :=
  if s.tsra + 1 = s.rp then colFrame c (s.memRead (rowOf s.ari)) ++ rowFrame s.arm else []

/-- What an abandoned step leaves outside the block, where a reset does not reach: the chips have seen the pin
writes made so far (rules R170, R171; log entry 18). A host command writes no pin (rule R34). -/
def abandon (c : Config) (a : Abandoned) (s : State) : State :=
  match a with
  | .nothing | .command _ => s
  | .tick n => s.pinWrites ((s.tickWrites c).take n)

/-- `n` TICKs in a row. -/
def ticks (c : Config) : Nat → State → State
  | 0, s => s
  | n + 1, s => ticks c n (s.tick c)

end Sys2Proof.Machine.State
end

