-- ==== Sys2Proof/Machine/Frame.lean ====
section
/-! DEFINITION. The meanings of the pixel buffer and frame commit commands (44_frame_ops.md). -/

namespace Sys2Proof.Machine

/-- A host command that ends in this state. The block raises nothing (rule R150). -/
abbrev Result := Host.Outcome State Fault Refusal

/-- SETPX x, y, v: `PB[x][y] <- v`; out of range, nothing (rules R130, R131). -/
def execSetpx (x y : IndexField) (v : Bit) (s : State) : Result :=
  match pixelIndex x, pixelIndex y with
  | some i, some k => .next (s.setPixel i k v).noResponse
  | _, _ => .next s.noResponse

/-- COMMIT: `CF[k] <- {PB[7][k], ..., PB[0][k]}` for every row, in the one step (rules R132, R138). -/
def execCommit (s : State) : Result :=
  .next (octet.foldl (fun t k => t.memWrite k (t.packedRow k)) s).noResponse

/-- CLRALL: every cell of PB to 0 (rule R133). -/
def execClrall (s : State) : Result := .next (s.setAllPixels false).noResponse

/-- FILLALL: every cell of PB to 1 (rule R134). -/
def execFillall (s : State) : Result := .next (s.setAllPixels true).noResponse

/-- LDROW k, b: `PB[i][k] <- b[i]` for every position; out of range, nothing (rule R135). -/
def execLdrow (k : IndexField) (b : Byte) (s : State) : Result :=
  match pixelIndex k with
  | some k => .next (s.setPixelRow k b).noResponse
  | none => .next s.noResponse

end Sys2Proof.Machine
end

