-- ==== Sys2Proof/Machine/Input.lean ====
section
/-! DEFINITION. The meanings of the host commands of the input sampler (42_input_sampler.md). -/

namespace Sys2Proof.Machine

/-- WASPR ch: answer LE[ch] and clear it, one step; out of range, answer 0 and change nothing (rules R104,
R105). -/
def execWaspr (ch : IndexField) (s : State) : Result :=
  match channel ch with
  | some k => .next ((s.respond (zext16Bit s.le[k])).setLe k false)
  | none => .next (s.respond 0)

/-- ISHELD ch: answer whether BTN[ch] is at its active level, 0, now; the analog channel and out of range
answer 0 (rules R106, R107). -/
def execIsheld (ch : IndexField) (s : State) : Result :=
  match digitalChannel ch with
  | some k => .next (s.respond (zext16Bit (s.btn[k] == false)))
  | none => .next (s.respond 0)

/-- ALEVEL: answer the reading on ADC now, not ASAMP (rule R108). -/
def execAlevel (s : State) : Result := .next (s.respond (zext16Reading s.adc))

/-- SETTHR t: `ATH <- t` (rule R109). -/
def execSetthr (t : Threshold) (s : State) : Result := .next (s.setAth t).noResponse

end Sys2Proof.Machine
end

