-- ==== Sys2Proof/Machine/RowPeriod.lean ====
section
/-! DEFINITION. The meaning of SETRP (43_tick_dispatcher.md section 3). -/

namespace Sys2Proof.Machine

/-- SETRP p: write the pending row period, 0 stored as 1 (rules R120, R121). -/
def execSetrp (p : Period) (s : State) : Result := .next (s.setRpp (clampPeriod p)).noResponse

end Sys2Proof.Machine
end

