-- ==== Sys2Proof/Machine/Dispatch.lean ====
section
/-! DEFINITION. One arm per host command (rule R62). -/

namespace Sys2Proof.Machine

def exec (i : Instr) (s : State) : Host.Outcome State Fault Refusal :=
  match i with
  -- 44_frame_ops.md
  | .setpx x y v => Sys2Proof.Machine.execSetpx x y v s
  | .commit => Sys2Proof.Machine.execCommit s
  | .clrall => Sys2Proof.Machine.execClrall s
  | .fillall => Sys2Proof.Machine.execFillall s
  | .ldrow k b => Sys2Proof.Machine.execLdrow k b s
  -- 42_input_sampler.md
  | .waspr ch => Sys2Proof.Machine.execWaspr ch s
  | .isheld ch => Sys2Proof.Machine.execIsheld ch s
  | .alevel => Sys2Proof.Machine.execAlevel s
  | .setthr t => Sys2Proof.Machine.execSetthr t s
  -- 43_tick_dispatcher.md
  | .setrp p => Sys2Proof.Machine.execSetrp p s

end Sys2Proof.Machine
end

