-- ==== Sys2Proof/Machine/Events.lean ====
section
/-! DEFINITION. What one event does (rules R2, R3, R4, R170), and the step of a machine with a given
configuration. -/

namespace Sys2Proof.Machine

/-- A word on the command port: decoded, then performed as one step; a reserved word is refused (rules R60,
R72). -/
def runWord (w : CmdWord) (s : State) : Result :=
  match decode w with
  | .ok i => exec i s
  | .error why => .refused (.reservedWord w why)

/-- One event, on the state from which it has already been taken (rule R2). A TICK and a command that arrive
together: this step is the TICK, and the command comes next (rules R4, R155). A reset takes effect on what the
step in progress has done so far (rule R170). -/
def perform (c : Config) (e : Event) (s : State) : Result :=
  match e with
  | .tick => .next (s.tick c)
  | .cmd w => runWord w s
  | .tickAndCmd w => .next ((s.tick c).setEvents (.cmd w :: s.events))
  | .btn k v => .next (s.setBtn k v)
  | .adc a => .next (s.setAdc a)
  | .reset a => .next ((s.abandon c a).resetBlock c)

/-- One step of a machine with configuration `c`: the next event of the queue, or nothing when none waits
(rules R2, R164, R184; log entry 1). -/
def stepWith (c : Config) (s : State) : Result :=
  match s.events with
  | [] => .next s
  | e :: es => perform c e (s.setEvents es)

/-- What the hardware does with a reserved word: no state changes and no response (rules R70, R72). -/
def ignoreWord (s : State) : State := (s.setEvents s.events.tail).noResponse

/-- The step the hardware makes: that of `stepWith`, but a reserved word is ignored and not refused (rule R72;
log entry 3). -/
def hardwareStepWith (c : Config) (s : State) : Result :=
  match stepWith c s with
  | .refused (.reservedWord _ _) => .next (ignoreWord s)
  | o => o

/-- `n` steps one after another, stopping where one stops (rule R50). -/
def runWith (c : Config) : Nat → State → Result
  | 0, s => .next s
  | n + 1, s =>
    match stepWith c s with
    | .next t => runWith c n t
    | o => o

/-- Commands one after another (rule R50). -/
def execAll : List Instr → State → Result
  | [], s => .next s
  | i :: is, s =>
    match exec i s with
    | .next t => execAll is t
    | o => o

end Sys2Proof.Machine
end

