-- ==== Sys2Proof/Machine/Step.lean ====
section
/-! DEFINITION. One step of the machine the spec describes, the configuration `Config.lmrs`. -/

namespace Sys2Proof.Machine

/-- One step (rule R2). -/
def step (s : State) : Host.Outcome State Fault Refusal := stepWith Config.lmrs s

/-- One step of the hardware, which ignores a reserved word (rule R72; log entry 3). -/
def hardwareStep (s : State) : Host.Outcome State Fault Refusal := hardwareStepWith Config.lmrs s

/-- The state with a command word placed first on the command port. The block has no program store (rule R13):
a program is what the host sends (log entry 12). -/
def State.withFetchWord (s : State) (nbits w : Nat) : State :=
  s.setEvents (.cmd (BitVec.ofNat 16 (w % 2 ^ nbits)) :: s.events)

end Sys2Proof.Machine
end

