-- ==== Sys2Proof/Safety.lean ====
section
/-! DEFINITION. What holds at every point between steps (10_state.md), and the vocabulary of the claims. -/

namespace Sys2Proof.Machine

/-- `one_hot(m)`: exactly one bit of `m` is 1 (00_scope.md section 6.1). -/
abbrev oneHot (m : Byte) : Prop := ∃ i : Fin 8, ∀ j : Fin 8, m.getLsbD j = decide (j = i)

/-- The mask of display row `k` is `0x80 >> k` (rule R17). -/
def maskOf (i : RowIndex) : Byte := 0x80 >>> i.toNat

/-- What the rules say of every point between steps: R16, R17 (the mask), R19 (TSRA), R22 (the periods); the
levels both transfers leave, R81, R84; and the canonical form of the frame store. -/
structure State.Inv (s : State) : Prop where
  maskOneHot : oneHot s.arm
  maskIsRow : s.arm = maskOf s.ari
  tsraBelow : s.tsra < s.rp
  rpPos : s.rp ≠ 0
  rppPos : s.rpp ≠ 0
  latchLow : s.pins.latch = false
  clkRowLow : s.pins.clkRow = false
  frameWf : Memory.wf s.cf = true

/-- How often a pin rises in a sequence of writes that starts from the given levels. -/
def risingEdges (p : Pin) : Pins → List PinWrite → Nat
  | _, [] => 0
  | r, w :: ws => (if w.pin = p ∧ r.rises w then 1 else 0) + risingEdges p (r.set w.pin w.level) ws

/-- How often a pin is written. -/
def writesOf (p : Pin) (ws : List PinWrite) : Nat := (ws.filter fun w => w.pin = p).length

/-- The registers, pins, logs, chips, inputs and waiting events that no host command writes (rule R34). -/
structure HostFrame (s t : State) : Prop where
  ari : t.ari = s.ari
  arm : t.arm = s.arm
  tsra : t.tsra = s.tsra
  rp : t.rp = s.rp
  bzt : t.bzt = s.bzt
  raw : t.raw = s.raw
  asamp : t.asamp = s.asamp
  pins : t.pins = s.pins
  pinTrace : t.pinTrace = s.pinTrace
  callLog : t.callLog = s.callLog
  chips : t.chips = s.chips
  btn : t.btn = s.btn
  adc : t.adc = s.adc
  events : t.events = s.events

/-- What no TICK writes: the host's registers and stores, the responses, the inputs and the waiting events (rule
R34). -/
structure TickFrame (s t : State) : Prop where
  pb : t.pb = s.pb
  cf : t.cf = s.cf
  rpp : t.rpp = s.rpp
  ath : t.ath = s.ath
  resp : t.resp = s.resp
  responses : t.responses = s.responses
  btn : t.btn = s.btn
  adc : t.adc = s.adc
  events : t.events = s.events

/-- Everything the scan and the display depend on and show: the stores and counters a row advance reads, the pins,
the logs, the chips (rules R13, R88). -/
structure SameScan (s t : State) : Prop where
  cf : t.cf = s.cf
  ari : t.ari = s.ari
  arm : t.arm = s.arm
  tsra : t.tsra = s.tsra
  rp : t.rp = s.rp
  rpp : t.rpp = s.rpp
  pins : t.pins = s.pins
  pinTrace : t.pinTrace = s.pinTrace
  callLog : t.callLog = s.callLog
  chips : t.chips = s.chips

/-- The next step is a TICK that runs a SAMPLE, and channel `k` meets the condition of rule R100 (digital) or R101
(analog): the SAMPLE latches the channel. -/
def LatchesNext (c : Config) (k : Fin 6) (s : State) : Prop :=
  (∃ es w, s.events = .tick :: es ∨ s.events = .tickAndCmd w :: es) ∧
  (s.tick c).tsra = (s.tick c).rp / 2 ∧
  ((∃ d : Fin 5, d.val = k.val ∧ s.raw[d] = true ∧ s.btn[d] = false) ∨
    (k.val = 5 ∧ s.asamp.toNat + s.ath.toNat ≤ s.adc.toNat))

/-- `n` steps lead from `s` to `t`, and none of them latches channel `k` (rule R112). -/
def QuietRun (c : Config) (k : Fin 6) : Nat → State → State → Prop
  | 0, s, t => t = s
  | n + 1, s, t => ¬LatchesNext c k s ∧ ∃ u, stepWith c s = .next u ∧ QuietRun c k n u t

/-- A queue of events with its TICKs taken out, one that a reset abandons included; the rest stays in order (rule
R140). -/
def dropTicks : List Event → List Event
  | [] => []
  | .tick :: es => dropTicks es
  | .tickAndCmd w :: es => .cmd w :: dropTicks es
  | .reset (.tick _) :: es => .reset .nothing :: dropTicks es
  | e :: es => e :: dropTicks es

/-- The words of rule R72: an opcode not in use, or a must-be-zero field that is not zero. -/
def IsReserved (w : CmdWord) : Prop :=
  w.extractLsb' 12 4 ∈ [0x0#4, 0xB#4, 0xC#4, 0xD#4, 0xE#4, 0xF#4] ∨
  (w.extractLsb' 12 4 ∈ [0x2#4, 0x3#4, 0x4#4, 0x8#4] ∧ w.extractLsb' 0 12 ≠ 0) ∨
  (w.extractLsb' 12 4 = 0x1#4 ∧ w.extractLsb' 1 3 ≠ 0) ∨
  (w.extractLsb' 12 4 ∈ [0x6#4, 0x7#4] ∧ w.extractLsb' 0 8 ≠ 0)

end Sys2Proof.Machine
end

