-- ==== Sys2Proof/Certificates/Slice0/Obligations.lean ====
section
/-! DEFINITION. The statements for the provers, file by file of spec/. Each says which rule it formalises. -/

open Sys2Proof Sys2Proof.Machine

/-! ### 30_encoding.md -/

/-- Decoding the word of any command gives the command back, every operand at every value its field admits. -/
def Obligations.DecodeOfEncodeIsTheCommand : Prop := ∀ i : Instr, decode (encode i) = .ok i

/-- A word that decodes is the word of its command: each command has one word. -/
def Obligations.DecodedWordIsTheCommandsWord : Prop :=
  ∀ (w : CmdWord) (i : Instr), decode w = .ok i → encode i = w

/-- Rule R68: a word is the command exactly when it matches the row's mask and match, with the operands the
pattern's letters name, taken as they stand; no two rows match the same word; a word that matches no row is none. -/
def Obligations.DecoderAgreesWithTheOpcodeMap : Prop :=
  ∀ w : CmdWord,
    (w &&& 0xF00E = 0x1000 ↔
      decode w = .ok (.setpx (w.extractLsb' 8 4) (w.extractLsb' 4 4) (w.getLsbD 0))) ∧
    (w &&& 0xFFFF = 0x2000 ↔ decode w = .ok .commit) ∧
    (w &&& 0xFFFF = 0x3000 ↔ decode w = .ok .clrall) ∧
    (w &&& 0xFFFF = 0x4000 ↔ decode w = .ok .fillall) ∧
    (w &&& 0xF000 = 0x5000 ↔ decode w = .ok (.ldrow (w.extractLsb' 8 4) (w.extractLsb' 0 8))) ∧
    (w &&& 0xF0FF = 0x6000 ↔ decode w = .ok (.waspr (w.extractLsb' 8 4))) ∧
    (w &&& 0xF0FF = 0x7000 ↔ decode w = .ok (.isheld (w.extractLsb' 8 4))) ∧
    (w &&& 0xFFFF = 0x8000 ↔ decode w = .ok .alevel) ∧
    (w &&& 0xF000 = 0x9000 ↔ decode w = .ok (.setthr (w.extractLsb' 0 12))) ∧
    (w &&& 0xF000 = 0xA000 ↔ decode w = .ok (.setrp (w.extractLsb' 0 12))) ∧
    ((∃ i, decode w = .ok i) ↔ ∃ r ∈ opcodeMap, r.Matches w) ∧
    (∀ r ∈ opcodeMap, ∀ r' ∈ opcodeMap, r.Matches w → r'.Matches w → r = r')

/-- Rule R72: the reserved words are the listed ones; the model's step refuses such a word, and the hardware
ignores it, no state changed and no response. The all-zero word is one of them. -/
def Obligations.ReservedWordsAreRefusedAndIgnored : Prop :=
  (∀ w : CmdWord, IsReserved w ↔ ∃ why, decode w = .error why) ∧
  (∀ (w : CmdWord) (es : List Event) (s : State), s.events = .cmd w :: es → IsReserved w →
    (∃ why, decode w = .error why ∧ step s = .refused (.reservedWord w why)) ∧
    hardwareStep s = .next { s with events := es, resp := none }) ∧
  IsReserved 0x0000

/-- Words of 95_test_vectors.md section 2.1, one of every format, decode as the spec's table says. -/
def Obligations.SpecWordsDecodeAsWritten : Prop :=
  decodeTableWord 16 0x1251 = some (.setpx 2 5 true) ∧
  decodeTableWord 16 0x2000 = some .commit ∧
  decodeTableWord 16 0x53A5 = some (.ldrow 3 0xA5) ∧
  decodeTableWord 16 0x6500 = some (.waspr 5) ∧
  decodeTableWord 16 0x7400 = some (.isheld 4) ∧
  decodeTableWord 16 0x912C = some (.setthr 300) ∧
  decodeTableWord 16 0xA032 = some (.setrp 50) ∧
  decodeTableWord 16 0x1252 = none ∧ decodeTableWord 16 0x0000 = none ∧ decodeTableWord 16 0xB000 = none

/-- Rule R76: LDFRM is the eight LDROW commands in order and writes PB only; the directives stand for the steps of
the other agents and encode no command. -/
def Obligations.LdfrmAndDirectivesExpand : Prop :=
  (∀ b0 b1 b2 b3 b4 b5 b6 b7 : Byte,
    (Line.ldfrm b0.toNat b1.toNat b2.toNat b3.toNat b4.toNat b5.toNat b6.toNat b7.toNat).events =
      [.cmd (encode (.ldrow 0 b0)), .cmd (encode (.ldrow 1 b1)), .cmd (encode (.ldrow 2 b2)),
       .cmd (encode (.ldrow 3 b3)), .cmd (encode (.ldrow 4 b4)), .cmd (encode (.ldrow 5 b5)),
       .cmd (encode (.ldrow 6 b6)), .cmd (encode (.ldrow 7 b7))]) ∧
  (∀ (b : Vector Byte 8) (s : State), ∃ t, execAll (ldfrm b) s = .next t ∧ t = { s with pb := t.pb, resp := none }) ∧
  (∀ n, (Line.tick n).events = List.replicate n .tick ∧ (Line.tick n).instrs = []) ∧
  (∀ (k : Fin 5) (v : Bit), (Line.btn k v.toNat).events = [.btn k v] ∧ (Line.btn k v.toNat).instrs = []) ∧
  (∀ a : Reading, (Line.adc a.toNat).events = [.adc a] ∧ (Line.adc a.toNat).instrs = []) ∧
  Line.reset.events = [.reset .nothing] ∧ Line.reset.instrs = []

/-! ### 00_scope.md: steps -/

/-- A word on the command port that decodes to `i` makes the step that is `exec` of `i`, with the word taken from
the queue; so does the word of any command. -/
def Obligations.StepRunsTheDecodedCommand : Prop :=
  (∀ (s : State) (w : CmdWord) (es : List Event) (i : Instr), s.events = .cmd w :: es → decode w = .ok i →
    step s = exec i { s with events := es }) ∧
  (∀ (s : State) (es : List Event) (i : Instr), s.events = .cmd (encode i) :: es →
    step s = exec i { s with events := es })

/-- A table word placed on the command port is the very next command, performed on the state it was placed in
(log entry 12 says how a program comes to run). -/
def Obligations.PlacedTableWordRunsNext : Prop :=
  ∀ (s : State) (w : Nat) (i : Instr), decodeTableWord 16 w = some i → step (s.withFetchWord 16 w) = exec i s

/-- Rules R2 and R4, with the queue of log entry 1: a step is one TICK, or one change of the environment, or one
reset; a TICK and a command that arrive together are the TICK first and then the command; with no event waiting
nothing happens. -/
def Obligations.StepPerformsTheNextEvent : Prop :=
  ∀ (s : State) (es : List Event),
    (s.events = .tick :: es → step s = .next (({ s with events := es } : State).tick Config.lmrs)) ∧
    (∀ w, s.events = .tickAndCmd w :: es →
      step s = .next { ({ s with events := es } : State).tick Config.lmrs with events := .cmd w :: es }) ∧
    (∀ k v, s.events = .btn k v :: es → step s = .next { s with events := es, btn := s.btn.set k v }) ∧
    (∀ a, s.events = .adc a :: es → step s = .next { s with events := es, adc := a }) ∧
    (s.events = [] → step s = .next s)

/-- Rules R5 and R150: no operation stops the block. A step of the model that is no next state is a reserved word,
refused; the hardware's step is always a next state. -/
def Obligations.OnlyReservedWordsStop : Prop :=
  (∀ (c : Config) (s : State), (∃ t, stepWith c s = .next t) ∨
    ∃ w es why, s.events = .cmd w :: es ∧ IsReserved w ∧ stepWith c s = .refused (.reservedWord w why)) ∧
  (∀ (c : Config) (s : State), ∃ t, hardwareStepWith c s = .next t)

/-! ### 10_state.md -/

/-- Rule R33: a reset puts every register in the value of the table, all at once, whatever it held and whatever step
was in progress; so does the state after power-on. -/
def Obligations.ResetPutsEveryRegisterAtItsValue : Prop :=
  ∀ (s : State) (a : Abandoned) (es : List Event), s.events = .reset a :: es → ∃ t, step s = .next t ∧
    ∀ u ∈ [t, State.reset],
      (∀ i k, u.pixel i k = false) ∧ (∀ k, u.memRead k = 0x00) ∧ u.ari = 0 ∧ u.arm = 0x80 ∧
      u.tsra = 0 ∧ u.rp = 50 ∧ u.rpp = 50 ∧ u.bzt = 0 ∧ (∀ k : Fin 5, u.raw[k] = true) ∧ u.asamp = 0 ∧
      (∀ k : Fin 6, u.le[k] = false) ∧ u.ath = 300 ∧ u.pins.data = false ∧ u.pins.clkCol = false ∧
      u.pins.clkRow = false ∧ u.pins.latch = false ∧ u.pins.oeN = true ∧ u.pinTrace = [] ∧ u.callLog = []

/-- A reset leaves what is outside the block: the chips (rule R171, U5), the inputs (rule R31, rule R33's last
sentence); by the model's choice also the waiting events (log entry 11) and the responses already given (log entry
7). It makes no pin write, and no pixel is lit, for any parameters. No step lights one before a row advance: a step
after which the outputs are enabled has made one. -/
def Obligations.ResetLeavesTheDisplayDark : Prop :=
  (∀ (c : Config) (s : State), (s.resetBlock c).chips = s.chips ∧ (s.resetBlock c).btn = s.btn ∧
    (s.resetBlock c).adc = s.adc ∧ (s.resetBlock c).events = s.events ∧
    (s.resetBlock c).responses = s.responses ∧ (s.resetBlock c).pinTrace = [] ∧
    (∀ i k, (s.resetBlock c).lit c i k = false)) ∧
  (∀ (c : Config) (s t : State), s.Inv → s.pins.oeN = c.oeDisableLevel → stepWith c s = .next t →
    t.pins.oeN ≠ c.oeDisableLevel → t.callLog.length = s.callLog.length + 2)

/-- The invariant holds after reset, for every legal choice of the parameters. -/
def Obligations.ResetMeetsTheInvariant : Prop :=
  State.reset.Inv ∧ ∀ (c : Config) (s : State), c.wf → (s.resetBlock c).Inv

/-- Rules R16, R17, R19 and R22 and the levels and the canonical form around them: from any state that meets the
invariant every step, under every legal choice of the parameters, gives a state that meets it. -/
def Obligations.EveryStepKeepsTheInvariant : Prop :=
  (∀ s t : State, s.Inv → step s = .next t → t.Inv) ∧
  (∀ (c : Config) (s t : State), c.wf → s.Inv → stepWith c s = .next t → t.Inv)

/-- Rule R22: RP >= 1 and RPP >= 1 at every point between steps, and SETRP replaces 0 by 1. -/
def Obligations.PeriodsAreNeverZero : Prop :=
  (1 ≤ State.reset.rp.toNat ∧ 1 ≤ State.reset.rpp.toNat) ∧
  (∀ (c : Config) (s t : State), c.wf → 1 ≤ s.rp.toNat → 1 ≤ s.rpp.toNat → stepWith c s = .next t →
    1 ≤ t.rp.toNat ∧ 1 ≤ t.rpp.toNat) ∧
  (∀ s : State, exec (.setrp 0) s = .next { s with rpp := 1, resp := none })

/-- Rule R34, the frame of every host command and of a TICK: each register is written in one context only, by the
operations the table names, LE alone by both (set by SAMPLE, cleared by WASPR). Every byte of memory outside the
frame, and outside a COMMIT every byte, reads as before. -/
def Obligations.EachRegisterHasOneWritingContext : Prop :=
  (∀ (i : Instr) (s t : State), exec i s = .next t → HostFrame s t ∧
    (t.pb ≠ s.pb → (∃ x y v, i = .setpx x y v) ∨ i = .clrall ∨ i = .fillall ∨ ∃ k b, i = .ldrow k b) ∧
    (∀ a, Memory.read t.cf a ≠ Memory.read s.cf a → i = .commit ∧ a < 8) ∧
    (t.cf ≠ s.cf → i = .commit) ∧
    (t.rpp ≠ s.rpp → ∃ p, i = .setrp p) ∧
    (t.ath ≠ s.ath → ∃ v, i = .setthr v) ∧
    (∀ k : Fin 6, t.le[k] ≠ s.le[k] → t.le[k] = false ∧ ∃ ch, i = .waspr ch ∧ ch.toNat = k.val)) ∧
  (∀ (c : Config) (s : State), s.Inv → TickFrame s (s.tick c) ∧
    (s.tsra.toNat + 1 ≠ s.rp.toNat → (s.tick c).ari = s.ari ∧ (s.tick c).arm = s.arm ∧
      (s.tick c).rp = s.rp ∧ (s.tick c).pins = s.pins ∧ (s.tick c).pinTrace = s.pinTrace ∧
      (s.tick c).callLog = s.callLog ∧ (s.tick c).chips = s.chips) ∧
    ((s.tick c).tsra.toNat ≠ (s.tick c).rp.toNat / 2 → (s.tick c).raw = s.raw ∧
      (s.tick c).asamp = s.asamp ∧ (s.tick c).le = s.le) ∧
    (∀ k : Fin 6, s.le[k] = true → (s.tick c).le[k] = true))

/-- Rule R27: over any step but a reset, an event flag that is 0 becomes 1 exactly in a TICK whose SAMPLE runs
under the condition of R100 (digital) or R101 (analog), and one that is 1 becomes 0 only by WASPR of its own
channel, which answers it and clears it. -/
def Obligations.LatchedEventsChangeInTwoWays : Prop :=
  ∀ (c : Config) (s t : State) (k : Fin 6), stepWith c s = .next t → (∀ a es, s.events ≠ .reset a :: es) →
    (s.le[k] = false → (t.le[k] = true ↔
      (∃ es w, s.events = .tick :: es ∨ s.events = .tickAndCmd w :: es) ∧ t.tsra = t.rp / 2 ∧
      ((∃ d : Fin 5, d.val = k.val ∧ s.raw[d] = true ∧ s.btn[d] = false) ∨
        (k.val = 5 ∧ s.asamp.toNat + s.ath.toNat ≤ s.adc.toNat)))) ∧
    (s.le[k] = true → t.le[k] = false →
      ∃ w es ch, s.events = .cmd w :: es ∧ decode w = .ok (.waspr ch) ∧ ch.toNat = k.val) ∧
    (∀ w es ch, s.events = .cmd w :: es → decode w = .ok (.waspr ch) → ch.toNat = k.val →
      t.resp = some (if s.le[k] then 0x0001 else 0x0000) ∧ t.le[k] = false)

/-- Rule R12: what a command answers depends on the latched events, the button levels and the analog reading
alone; no other register can be read by the host. -/
def Obligations.HostReadsThreeValuesOnly : Prop :=
  ∀ (i : Instr) (s s' t t' : State), s.le = s'.le → s.btn = s'.btn → s.adc = s'.adc →
    exec i s = .next t → exec i s' = .next t' →
    t.resp = t'.resp ∧ ∃ rs, t.responses = s.responses ++ rs ∧ t'.responses = s'.responses ++ rs

/-! ### 20_memory.md -/

/-- Rule R41: MemRead returns CF[k] and changes nothing; MemWrite sets CF[k], no other byte and nothing else, and
keeps the canonical form. -/
def Obligations.FrameStoreReadsWhatWasWritten : Prop :=
  ∀ (s : State) (k : Fin 8) (v : Byte),
    (s.memWrite k v).memRead k = v ∧ (∀ j, j ≠ k → (s.memWrite k v).memRead j = s.memRead j) ∧
    s.memWrite k v = { s with cf := (s.memWrite k v).cf } ∧
    (Memory.wf s.cf = true → Memory.wf (s.memWrite k v).cf = true)

/-- Rules R54 and R55: after a COMMIT every row advance sends its row as committed, and after a SETTHR every SAMPLE
compares with the new threshold, however many steps of any kind lie between, with no other COMMIT, no other SETTHR
and no reset among them. -/
def Obligations.HostWritesAreSeenByTheNextTick : Prop :=
  (∀ (c : Config) (s t u : State) (n : Nat), exec .commit s = .next t → runWith c n t = .next u →
    (∀ w, .cmd w ∈ t.events ∨ .tickAndCmd w ∈ t.events → decode w ≠ .ok .commit) → (∀ a, .reset a ∉ t.events) →
    u.tsra.toNat + 1 = u.rp.toNat →
    ∃ d, (u.tick c).callLog = u.callLog ++ [.col d, .row u.arm] ∧
      ∀ i : Fin 8, d.getLsbD i = s.pixel i (State.rowOf u.ari)) ∧
  (∀ (c : Config) (v : Threshold) (s t u : State) (n : Nat), exec (.setthr v) s = .next t →
    runWith c n t = .next u →
    (∀ w, .cmd w ∈ t.events ∨ .tickAndCmd w ∈ t.events → ∀ v', decode w ≠ .ok (.setthr v')) →
    (∀ a, .reset a ∉ t.events) →
    (u.sample.le[analogChannel] = true ↔
      u.le[analogChannel] = true ∨ u.asamp.toNat + v.toNat ≤ u.adc.toNat))

/-! ### 40_serial_protocol.md -/

/-- Rule R80: SCOL b logs COL(b) and makes exactly these 28 pin writes, bit 0 first; nothing else is written but
the pin registers OE_N, CLK_COL, DATA, LATCH (and the chips behind them). -/
def Obligations.ColumnTransferIsThisSequence : Prop :=
  ∀ (b : Byte) (s : State),
    s.scol Config.lmrs b = { s with
      callLog := s.callLog ++ [.col b]
      pinTrace := s.pinTrace ++
        [⟨.oeN, true⟩,
         ⟨.clkCol, false⟩, ⟨.data, b.getLsbD 0⟩, ⟨.clkCol, true⟩, ⟨.clkCol, false⟩, ⟨.data, b.getLsbD 1⟩, ⟨.clkCol, true⟩,
         ⟨.clkCol, false⟩, ⟨.data, b.getLsbD 2⟩, ⟨.clkCol, true⟩, ⟨.clkCol, false⟩, ⟨.data, b.getLsbD 3⟩, ⟨.clkCol, true⟩,
         ⟨.clkCol, false⟩, ⟨.data, b.getLsbD 4⟩, ⟨.clkCol, true⟩, ⟨.clkCol, false⟩, ⟨.data, b.getLsbD 5⟩, ⟨.clkCol, true⟩,
         ⟨.clkCol, false⟩, ⟨.data, b.getLsbD 6⟩, ⟨.clkCol, true⟩, ⟨.clkCol, false⟩, ⟨.data, b.getLsbD 7⟩, ⟨.clkCol, true⟩,
         ⟨.latch, true⟩, ⟨.latch, false⟩, ⟨.oeN, false⟩]
      pins := ⟨b.getLsbD 7, true, s.pins.clkRow, false, false⟩
      chips := (s.scol Config.lmrs b).chips }

/-- Rule R81, derived from R80: 28 writes, 8 rising edges of CLK_COL, no write of CLK_ROW, one rising edge of
LATCH, and the levels it ends with. -/
def Obligations.ColumnTransferEdgeCount : Prop :=
  ∀ (c : Config) (b : Byte) (s : State), s.pins.latch = false →
    (colFrame c b).length = 28 ∧ risingEdges .clkCol s.pins (colFrame c b) = 8 ∧
    writesOf .clkRow (colFrame c b) = 0 ∧ risingEdges .latch s.pins (colFrame c b) = 1 ∧
    (s.scol c b).pins = ⟨b.getLsbD 7, true, s.pins.clkRow, false, !c.oeDisableLevel⟩

/-- Rule R82, derived from R80: from the first pin write of an SCOL to the last but one, the outputs are disabled. -/
def Obligations.OutputsAreBlankedDuringAColumnTransfer : Prop :=
  ∀ (c : Config) (b : Byte) (s : State) (n : Nat), 1 ≤ n → n < 28 →
    ((s.logCall (.col b)).pinWrites ((colFrame c b).take n)).pins.oeN = c.oeDisableLevel ∧
    ∀ i k, ((s.logCall (.col b)).pinWrites ((colFrame c b).take n)).lit c i k = false

/-- Rule R83: SROW b logs ROW(b) and makes exactly these 27 pin writes, bit 0 first; OE_N and CLK_COL are not
written, nor anything else but LATCH, DATA, CLK_ROW (and the chips behind them). -/
def Obligations.RowTransferIsThisSequence : Prop :=
  ∀ (b : Byte) (s : State),
    s.srow b = { s with
      callLog := s.callLog ++ [.row b]
      pinTrace := s.pinTrace ++
        [⟨.latch, false⟩,
         ⟨.data, b.getLsbD 0⟩, ⟨.clkRow, true⟩, ⟨.clkRow, false⟩, ⟨.data, b.getLsbD 1⟩, ⟨.clkRow, true⟩, ⟨.clkRow, false⟩,
         ⟨.data, b.getLsbD 2⟩, ⟨.clkRow, true⟩, ⟨.clkRow, false⟩, ⟨.data, b.getLsbD 3⟩, ⟨.clkRow, true⟩, ⟨.clkRow, false⟩,
         ⟨.data, b.getLsbD 4⟩, ⟨.clkRow, true⟩, ⟨.clkRow, false⟩, ⟨.data, b.getLsbD 5⟩, ⟨.clkRow, true⟩, ⟨.clkRow, false⟩,
         ⟨.data, b.getLsbD 6⟩, ⟨.clkRow, true⟩, ⟨.clkRow, false⟩, ⟨.data, b.getLsbD 7⟩, ⟨.clkRow, true⟩, ⟨.clkRow, false⟩,
         ⟨.latch, true⟩, ⟨.latch, false⟩]
      pins := ⟨b.getLsbD 7, s.pins.clkCol, false, false, s.pins.oeN⟩
      chips := (s.srow b).chips }

/-- Rule R84, derived from R83: 27 writes, 8 rising edges of CLK_ROW, no write of CLK_COL or OE_N, one rising edge
of LATCH, and the levels it ends with. -/
def Obligations.RowTransferEdgeCount : Prop :=
  ∀ (b : Byte) (s : State), s.pins.clkRow = false →
    (rowFrame b).length = 27 ∧ risingEdges .clkRow s.pins (rowFrame b) = 8 ∧
    writesOf .clkCol (rowFrame b) = 0 ∧ writesOf .oeN (rowFrame b) = 0 ∧
    risingEdges .latch s.pins (rowFrame b) = 1 ∧
    (s.srow b).pins = ⟨b.getLsbD 7, s.pins.clkCol, false, false, s.pins.oeN⟩

/-- Rule R86: the column chip shifts DATA in at bit 7 on each rising edge of CLK_COL, copies to its outputs on each
rising edge of LATCH, and does nothing else; after a complete SCOL both registers hold the byte. -/
def Obligations.ColumnChipReceivesTheByte : Prop :=
  (∀ (s : State) (w : PinWrite),
    (w.pin = .clkCol ∧ s.pins.clkCol = false ∧ w.level = true →
      (s.pinWrite w).chips.csr.getLsbD 7 = s.pins.data ∧
      ∀ j, j < 7 → (s.pinWrite w).chips.csr.getLsbD j = s.chips.csr.getLsbD (j + 1)) ∧
    (¬(w.pin = .clkCol ∧ s.pins.clkCol = false ∧ w.level = true) →
      (s.pinWrite w).chips.csr = s.chips.csr) ∧
    (w.pin = .latch ∧ s.pins.latch = false ∧ w.level = true → (s.pinWrite w).chips.colOut = s.chips.csr) ∧
    (¬(w.pin = .latch ∧ s.pins.latch = false ∧ w.level = true) →
      (s.pinWrite w).chips.colOut = s.chips.colOut)) ∧
  (∀ (c : Config) (b : Byte) (s : State), s.pins.latch = false →
    (s.scol c b).chips.csr = b ∧ (s.scol c b).chips.colOut = b)

/-- Rule R87: the row chip likewise with CLK_ROW; the one LATCH pin also copies the other chip's shift register,
which changes nothing when that chip's outputs already show it. -/
def Obligations.RowChipReceivesTheByte : Prop :=
  (∀ (s : State) (w : PinWrite),
    (w.pin = .clkRow ∧ s.pins.clkRow = false ∧ w.level = true →
      (s.pinWrite w).chips.rsr.getLsbD 7 = s.pins.data ∧
      ∀ j, j < 7 → (s.pinWrite w).chips.rsr.getLsbD j = s.chips.rsr.getLsbD (j + 1)) ∧
    (¬(w.pin = .clkRow ∧ s.pins.clkRow = false ∧ w.level = true) →
      (s.pinWrite w).chips.rsr = s.chips.rsr) ∧
    (w.pin = .latch ∧ s.pins.latch = false ∧ w.level = true → (s.pinWrite w).chips.rowOut = s.chips.rsr) ∧
    (¬(w.pin = .latch ∧ s.pins.latch = false ∧ w.level = true) →
      (s.pinWrite w).chips.rowOut = s.chips.rowOut)) ∧
  (∀ (b : Byte) (s : State), s.pins.clkRow = false →
    (s.srow b).chips.rsr = b ∧ (s.srow b).chips.rowOut = b ∧
    (s.chips.colOut = s.chips.csr → (s.srow b).chips.colOut = s.chips.colOut)) ∧
  (∀ (c : Config) (b : Byte) (s : State), s.pins.latch = false →
    (s.scol c b).chips.rowOut = s.chips.rsr ∧
    (s.chips.rowOut = s.chips.rsr → (s.scol c b).chips.rowOut = s.chips.rowOut))

/-! ### 41_row_scanner.md -/

/-- Rule R90: ADVROW sends CF[ARI] and then ARM, each once, and then steps ARI modulo 8 and rotates ARM right by
one. The pins and the chips are left as the SCOL and then the SROW leave them, the pins at the levels of rules R81 and
R84; of the rest it writes only the logs. -/
def Obligations.AdvrowSendsOneRowAndSteps : Prop :=
  ∀ (c : Config) (s : State),
    (s.advRow c).callLog = s.callLog ++ [.col (s.memRead (State.rowOf s.ari)), .row s.arm] ∧
    (s.advRow c).pinTrace =
      s.pinTrace ++ colFrame c (s.memRead (State.rowOf s.ari)) ++ rowFrame s.arm ∧
    (s.advRow c).ari.toNat = (s.ari.toNat + 1) % 8 ∧
    (∀ j, j < 7 → (s.advRow c).arm.getLsbD j = s.arm.getLsbD (j + 1)) ∧
    (s.advRow c).arm.getLsbD 7 = s.arm.getLsbD 0 ∧
    (s.advRow c).pins = ((s.scol c (s.memRead (State.rowOf s.ari))).srow s.arm).pins ∧
    (s.advRow c).chips = ((s.scol c (s.memRead (State.rowOf s.ari))).srow s.arm).chips ∧
    (s.advRow c).pins = ⟨s.arm.getLsbD 7, true, false, false, !c.oeDisableLevel⟩ ∧
    s.advRow c = { s with
      ari := (s.advRow c).ari, arm := (s.advRow c).arm, callLog := (s.advRow c).callLog
      pinTrace := (s.advRow c).pinTrace, pins := (s.advRow c).pins, chips := (s.advRow c).chips }

/-- Rules R88 and R94, derived from R90: when an ADVROW has ended, exactly the pixels of its row that the frame
marks lit are lit, and no pixel of any other row, whatever the chips held before. -/
def Obligations.AdvrowLightsExactlyItsRow : Prop :=
  ∀ (c : Config) (s : State), s.Inv → ∀ i k : Fin 8,
    (s.advRow c).lit c i k = (decide (k = State.rowOf s.ari) && (s.memRead k).getLsbD i)

/-- Rule R94, last sentence: what is lit stays lit, and nothing else is, over every step that is no row advance
and no reset. -/
def Obligations.LitPixelsHoldUntilTheNextAdvrow : Prop :=
  ∀ (c : Config) (s t : State), stepWith c s = .next t → (∀ a es, s.events ≠ .reset a :: es) →
    t.callLog = s.callLog → t.pinTrace = s.pinTrace ∧ ∀ i k, t.lit c i k = s.lit c i k

/-- Rules R92, R93 and R126, derived from R90 and R115: over eight row periods with no command between, the rows
are sent once each in rising order from the starting one, byte `k` with mask `0x80 >> k`; ARI and ARM end as they
began and 440 pin writes are made. -/
def Obligations.EightRowPeriodsSendTheFrameOnce : Prop :=
  ∀ (c : Config) (s : State), s.Inv → s.tsra = 0 → s.rpp = s.rp →
    let t := s.ticks c (8 * s.rp.toNat)
    t.callLog = s.callLog ++ octet.flatMap (fun j =>
      [.col (s.memRead (State.rowOf (s.ari + BitVec.ofNat 3 j))), .row (maskOf (s.ari + BitVec.ofNat 3 j))]) ∧
    t.ari = s.ari ∧ t.arm = s.arm ∧ t.tsra = 0 ∧ t.rp = s.rp ∧
    t.pinTrace.length = s.pinTrace.length + 440

/-! ### 42_input_sampler.md -/

/-- Rule R100: a digital channel latches on the edge from idle to pressed and on no other occasion; RAW[k] is
always stored; no other flag and nothing else is written. -/
def Obligations.DigitalSampleLatchesThePressEdge : Prop :=
  ∀ (k : Fin 5) (n : Bit) (s : State),
    ((s.sampleDig k n).le[digitalAsChannel k] = true ↔
      s.le[digitalAsChannel k] = true ∨ (s.raw[k] = true ∧ n = false)) ∧
    (∀ j : Fin 6, j ≠ digitalAsChannel k → (s.sampleDig k n).le[j] = s.le[j]) ∧
    s.sampleDig k n = { s with raw := s.raw.set k n, le := (s.sampleDig k n).le }

/-- Rule R101: the analog channel latches exactly when the reading is at least ASAMP + ATH on unbounded integers;
so a fall never latches, nor any sample with ATH above 1023, and with ATH 0 every sample that did not fall does;
ASAMP is always stored; nothing else is written. -/
def Obligations.AnalogSampleLatchesTheRise : Prop :=
  ∀ (a : Reading) (s : State),
    ((s.sampleAna a).le[analogChannel] = true ↔
      s.le[analogChannel] = true ∨ s.asamp.toNat + s.ath.toNat ≤ a.toNat) ∧
    (a.toNat < s.asamp.toNat → (s.sampleAna a).le = s.le) ∧
    (1023 < s.ath.toNat → (s.sampleAna a).le = s.le) ∧
    (s.ath = 0 → s.asamp.toNat ≤ a.toNat → (s.sampleAna a).le[analogChannel] = true) ∧
    (∀ j : Fin 6, j ≠ analogChannel → (s.sampleAna a).le[j] = s.le[j]) ∧
    s.sampleAna a = { s with asamp := a, le := (s.sampleAna a).le }

/-- Rule R102: one SAMPLE polls all six channels on one snapshot of the inputs; it writes RAW, ASAMP and, set only,
LE, no pin and no log. -/
def Obligations.SamplePollsAllSixChannels : Prop :=
  ∀ s : State,
    s.sample = { s with raw := s.btn, asamp := s.adc, le := s.sample.le } ∧
    (∀ k : Fin 5, s.sample.le[digitalAsChannel k] = true ↔
      s.le[digitalAsChannel k] = true ∨ (s.raw[k] = true ∧ s.btn[k] = false)) ∧
    (s.sample.le[analogChannel] = true ↔
      s.le[analogChannel] = true ∨ s.asamp.toNat + s.ath.toNat ≤ s.adc.toNat)

/-- Rules R104 and R105: WASPR answers the latched event and clears it, nothing else; a channel in 6..15 answers
0x0000 and changes no state. -/
def Obligations.WasprAnswersAndClears : Prop :=
  ∀ (ch : IndexField) (s : State),
    decode (0x6#4 ++ ch ++ 0#8) = .ok (.waspr ch) ∧
    (∀ k : Fin 6, ch.toNat = k.val → exec (.waspr ch) s = .next { s with
      le := s.le.set k false
      resp := some (if s.le[k] then 0x0001 else 0x0000)
      responses := s.responses ++ [if s.le[k] then 0x0001 else 0x0000] }) ∧
    (6 ≤ ch.toNat → exec (.waspr ch) s = .next { s with
      resp := some 0x0000, responses := s.responses ++ [0x0000] })

/-- Rule R112, derived from R104: of two WASPRs of one channel with no SAMPLE that latches this channel between them,
the first answers the old value and the second 0, whatever steps lie between: TICKs, commands, changes of the inputs.
The last clause is the case of host commands given directly. -/
def Obligations.SecondWasprAnswersZero : Prop :=
  (∀ (c : Config) (k : Fin 6) (ch : IndexField) (s t u v : State) (n : Nat), ch.toNat = k.val →
    exec (.waspr ch) s = .next t → QuietRun c k n t u → exec (.waspr ch) u = .next v →
    t.resp = some (if s.le[k] then 0x0001 else 0x0000) ∧ v.resp = some 0x0000) ∧
  (∀ (ch : IndexField) (s t u v : State) (is : List Instr), exec (.waspr ch) s = .next t →
    execAll is t = .next u → exec (.waspr ch) u = .next v → v.resp = some 0x0000)

/-- Rules R106 and R107: ISHELD answers whether the pin is at its active level, 0, now, and changes no state; the
analog channel and 6..15 answer 0x0000. -/
def Obligations.IsheldAnswersThePinNow : Prop :=
  ∀ (ch : IndexField) (s : State),
    decode (0x7#4 ++ ch ++ 0#8) = .ok (.isheld ch) ∧
    (∀ k : Fin 5, ch.toNat = k.val → exec (.isheld ch) s = .next { s with
      resp := some (if s.btn[k] then 0x0000 else 0x0001)
      responses := s.responses ++ [if s.btn[k] then 0x0000 else 0x0001] }) ∧
    (5 ≤ ch.toNat → exec (.isheld ch) s = .next { s with
      resp := some 0x0000, responses := s.responses ++ [0x0000] })

/-- Rule R108: ALEVEL answers the reading on ADC now, zero-extended, and changes no state. -/
def Obligations.AlevelAnswersTheReadingNow : Prop :=
  decode 0x8000 = .ok .alevel ∧ ∀ s : State, ∃ v : RespWord, v.toNat = s.adc.toNat ∧
    exec .alevel s = .next { s with resp := some v, responses := s.responses ++ [v] }

/-- Rule R109: SETTHR writes ATH unchanged, every value accepted, and nothing else. -/
def Obligations.SetthrWritesTheThreshold : Prop :=
  ∀ (t : Threshold) (s : State), decode (0x9#4 ++ t) = .ok (.setthr t) ∧
    exec (.setthr t) s = .next { s with ath := t, resp := none }

/-- Rule R110, derived from R100 and R104: levels idle, idle, pressed, pressed, idle in five SAMPLEs latch at the
third and at no other; the WASPR after it answers 1 and the flag then stays 0 over the last two SAMPLEs. -/
def Obligations.OnePressGivesOneEvent : Prop :=
  ∀ (k : Fin 5) (s : State), s.raw[k] = true → s.le[digitalAsChannel k] = false →
    let s1 := (s.setBtn k true).sample
    let s2 := (s1.setBtn k true).sample
    let s3 := (s2.setBtn k false).sample
    let s4 := (s3.setBtn k false).sample
    let s5 := (s4.setBtn k true).sample
    s1.le[digitalAsChannel k] = false ∧ s2.le[digitalAsChannel k] = false ∧
    s3.le[digitalAsChannel k] = true ∧ s4.le[digitalAsChannel k] = true ∧
    s5.le[digitalAsChannel k] = true ∧
    ∃ u, exec (.waspr (BitVec.ofNat 4 k)) s3 = .next u ∧ u.resp = some 0x0001 ∧
      let u4 := (u.setBtn k false).sample
      let u5 := (u4.setBtn k true).sample
      u.le[digitalAsChannel k] = false ∧ u4.le[digitalAsChannel k] = false ∧
      u5.le[digitalAsChannel k] = false

/-- Rule R111, derived from R101: with threshold 300 the readings 100, 150, 500 latch at 500 and not at 150; from
an ASAMP of 0 the 100 does not latch either. -/
def Obligations.RiseOfThreeHundredLatches : Prop :=
  ∀ s : State, s.ath = 300 → s.asamp = 0 → s.le[analogChannel] = false →
    let s1 := (s.setAdc 100).sample
    let s2 := (s1.setAdc 150).sample
    let s3 := (s2.setAdc 500).sample
    s1.le[analogChannel] = false ∧ s2.le[analogChannel] = false ∧ s3.le[analogChannel] = true ∧
    s3.asamp = 500

/-! ### 43_tick_dispatcher.md -/

/-- Rule R115: BZT and TSRA count; when TSRA reaches RP one ADVROW runs, TSRA becomes 0 and RP takes RPP; then,
when TSRA is floor(RP / 2) with the values now in force, one SAMPLE runs. Nothing else is written; the pins and the
chips are moved by the ADVROW alone. -/
def Obligations.TickCountsAdvancesAndSamples : Prop :=
  ∀ (c : Config) (s : State), s.Inv →
    let t := s.tick c
    t.bzt.toNat = (s.bzt.toNat + 1) % 65536 ∧
    (s.tsra.toNat + 1 = s.rp.toNat → t.tsra = 0 ∧ t.rp = s.rpp ∧ t.ari = s.ari + 1 ∧ t.arm = ror8 s.arm ∧
      t.callLog = s.callLog ++ [.col (s.memRead (State.rowOf s.ari)), .row s.arm] ∧
      t.pinTrace = s.pinTrace ++ colFrame c (s.memRead (State.rowOf s.ari)) ++ rowFrame s.arm ∧
      t.pins = (s.advRow c).pins ∧ t.chips = (s.advRow c).chips) ∧
    (s.tsra.toNat + 1 ≠ s.rp.toNat → t.tsra.toNat = s.tsra.toNat + 1 ∧ t.rp = s.rp ∧ t.ari = s.ari ∧
      t.arm = s.arm ∧ t.callLog = s.callLog ∧ t.pinTrace = s.pinTrace ∧ t.pins = s.pins ∧ t.chips = s.chips) ∧
    (t.tsra.toNat = t.rp.toNat / 2 → t.raw = s.btn ∧ t.asamp = s.adc ∧ t.le = s.sample.le) ∧
    (t.tsra.toNat ≠ t.rp.toNat / 2 → t.raw = s.raw ∧ t.asamp = s.asamp ∧ t.le = s.le) ∧
    TickFrame s t

/-- Rules R116 and R117, derived from R115: in a row period of P = RP TICKs the one ADVROW runs at the P-th TICK
and at no earlier one, and, for P >= 2, the one SAMPLE runs at the floor(P / 2)-th TICK. -/
def Obligations.OneAdvrowAndOneSampleInARowPeriod : Prop :=
  ∀ (c : Config) (s : State), s.Inv → s.tsra = 0 →
    (∀ n, n < s.rp.toNat → (s.ticks c n).callLog = s.callLog ∧ (s.ticks c n).pinTrace = s.pinTrace ∧
      (s.ticks c n).ari = s.ari ∧ (s.ticks c n).tsra.toNat = n ∧ (s.ticks c n).rp = s.rp) ∧
    ((s.ticks c s.rp.toNat).callLog =
        s.callLog ++ [.col (s.memRead (State.rowOf s.ari)), .row (maskOf s.ari)] ∧
      (s.ticks c s.rp.toNat).ari = s.ari + 1 ∧ (s.ticks c s.rp.toNat).tsra = 0 ∧
      (s.ticks c s.rp.toNat).rp = s.rpp) ∧
    (2 ≤ s.rp.toNat → ∀ n, n < s.rp.toNat →
      (n < s.rp.toNat / 2 → (s.ticks c n).raw = s.raw ∧ (s.ticks c n).asamp = s.asamp ∧
        (s.ticks c n).le = s.le) ∧
      (s.rp.toNat / 2 ≤ n → (s.ticks c n).raw = s.btn ∧ (s.ticks c n).asamp = s.adc ∧
        (s.ticks c n).le = s.sample.le))

/-- Rule R118, derived from R115: with RP = RPP = 1 every TICK runs one ADVROW and then one SAMPLE. -/
def Obligations.PeriodOneAdvancesAndSamplesEveryTick : Prop :=
  ∀ (c : Config) (s : State), s.Inv → s.rp = 1 → s.rpp = 1 → ∀ n,
    let t := s.ticks c n
    (t.tick c).callLog = t.callLog ++ [.col (s.memRead (State.rowOf t.ari)), .row (maskOf t.ari)] ∧
    (t.tick c).ari = t.ari + 1 ∧ (t.tick c).tsra = 0 ∧ (t.tick c).rp = 1 ∧
    (t.tick c).raw = s.btn ∧ (t.tick c).asamp = s.adc ∧ (t.tick c).le = t.sample.le

/-- Rule R125: BZT counts every TICK and wraps; after n TICKs from reset it is n mod 65536; no other register, pin
or log depends on it, in a TICK or in a host command. -/
def Obligations.BuzzerTicksCountEveryTick : Prop :=
  (∀ (c : Config) (n : Nat) (s : State), (s.ticks c n).bzt.toNat = (s.bzt.toNat + n) % 65536 ∧
    ∀ b : BuzzCount, ({ s with bzt := b } : State).ticks c n =
      { s.ticks c n with bzt := b + BitVec.ofNat 16 n }) ∧
  (∀ (c : Config) (n : Nat) (s : State), ((s.resetBlock c).ticks c n).buzzTicks.toNat = n % 65536) ∧
  (∀ (i : Instr) (s t : State) (b : BuzzCount), exec i s = .next t →
    exec i { s with bzt := b } = .next { t with bzt := b })

/-- Rules R120 and R121: SETRP writes RPP, 0 stored as 1, and nothing else: RP, TSRA, ARI and ARM are not
touched and there is no response. -/
def Obligations.SetrpWritesThePendingPeriod : Prop :=
  ∀ (p : Period) (s : State), decode (0xA#4 ++ p) = .ok (.setrp p) ∧
    exec (.setrp p) s = .next { s with rpp := if p = 0 then 1 else p, resp := none }

/-- Rule R122, derived from R115 and R120: after a SETRP the running row period ends under the old RP, and the
ADVROW that ends it brings the new value into force. -/
def Obligations.SetrpWaitsForTheRowAdvance : Prop :=
  ∀ (c : Config) (p : Period) (s t : State), s.Inv → exec (.setrp p) s = .next t →
    (∀ n, s.tsra.toNat + n < s.rp.toNat → (t.ticks c n).callLog = s.callLog ∧ (t.ticks c n).rp = s.rp ∧
      (t.ticks c n).tsra.toNat = s.tsra.toNat + n) ∧
    (∀ n, s.tsra.toNat + n = s.rp.toNat →
      (t.ticks c n).callLog = s.callLog ++ [.col (s.memRead (State.rowOf s.ari)), .row s.arm] ∧
      (t.ticks c n).tsra = 0 ∧ (t.ticks c n).rp = if p = 0 then 1 else p)

/-- Rule R126, derived: 400 TICKs from reset run eight ADVROWs over the dark frame. The reading of
the chips, the model's own choice at power-on (log entry 2), is not part of it. -/
def Obligations.FourHundredTicksFromReset : Prop :=
  let t := State.reset.ticks Config.lmrs 400
  t.callLog = [.col 0x00, .row 0x80, .col 0x00, .row 0x40, .col 0x00, .row 0x20, .col 0x00, .row 0x10,
    .col 0x00, .row 0x08, .col 0x00, .row 0x04, .col 0x00, .row 0x02, .col 0x00, .row 0x01] ∧
  t.pinTrace.length = 440 ∧ t.ari = 0 ∧ t.arm = 0x80 ∧ t.tsra = 0 ∧ t.bzt = 400

/-! ### 44_frame_ops.md -/

/-- Rules R130 and R131: SETPX writes the one pixel it names, by `x` first and `y` second, and nothing else; with a
coordinate in 8..15 it changes nothing. -/
def Obligations.SetpxWritesOnePixel : Prop :=
  ∀ (x y : IndexField) (v : Bit) (s : State),
    decode (0x1#4 ++ x ++ y ++ 0#3 ++ BitVec.ofBool v) = .ok (.setpx x y v) ∧
    ∃ t, exec (.setpx x y v) s = .next t ∧ t = { s with pb := t.pb, resp := none } ∧
      (∀ i k : Fin 8, t.pixel i k = if i.val = x.toNat ∧ k.val = y.toNat then v else s.pixel i k) ∧
      (8 ≤ x.toNat ∨ 8 ≤ y.toNat → t.pb = s.pb)

/-- Rule R132: COMMIT sets bit i of CF[k] to PB[i][k] for every row at once, and writes nothing else. -/
def Obligations.CommitPacksThePixelBuffer : Prop :=
  decode 0x2000 = .ok .commit ∧ ∀ s : State, ∃ t, exec .commit s = .next t ∧
    t = { s with cf := t.cf, resp := none } ∧
    (∀ i k : Fin 8, (t.memRead k).getLsbD i = s.pixel i k) ∧
    (∀ a, 8 ≤ a → Memory.read t.cf a = Memory.read s.cf a)

/-- Rule R137, derived from R132: a COMMIT after a COMMIT, with no pixel mutation between (commands that leave PB
and CF, any number of them), leaves the same frame, as data. -/
def Obligations.CommitIsIdempotent : Prop :=
  ∀ s t u v : State, Memory.wf s.cf = true → exec .commit s = .next t → u.pb = t.pb → u.cf = t.cf →
    exec .commit u = .next v → v.cf = t.cf

/-- Rules R133 and R134: CLRALL makes every pixel of PB dark, FILLALL every one lit; nothing else is written. -/
def Obligations.ClrallAndFillallSetEveryPixel : Prop :=
  decode 0x3000 = .ok .clrall ∧ decode 0x4000 = .ok .fillall ∧ ∀ s : State,
    (∃ t, exec .clrall s = .next t ∧ t = { s with pb := t.pb, resp := none } ∧ ∀ i k, t.pixel i k = false) ∧
    (∃ t, exec .fillall s = .next t ∧ t = { s with pb := t.pb, resp := none } ∧ ∀ i k, t.pixel i k = true)

/-- Rule R135: LDROW writes the eight pixels of display row `k` from the byte, bit i to position i, and nothing
else; with `k` in 8..15 it changes nothing; a COMMIT after it gives `CF[k] == b`. -/
def Obligations.LdrowWritesOneDisplayRow : Prop :=
  ∀ (k : IndexField) (b : Byte) (s : State),
    decode (0x5#4 ++ k ++ b) = .ok (.ldrow k b) ∧
    ∃ t, exec (.ldrow k b) s = .next t ∧ t = { s with pb := t.pb, resp := none } ∧
      (∀ i j : Fin 8, t.pixel i j = if j.val = k.toNat then b.getLsbD i else s.pixel i j) ∧
      (8 ≤ k.toNat → t.pb = s.pb) ∧
      ∃ u, exec .commit t = .next u ∧ ∀ j : Fin 8, j.val = k.toNat → u.memRead j = b

/-- Rule R136, derived from R132 and R135: after the eight commands of LDFRM and a COMMIT the loaded bytes are the
frame, and the eight leave CF as it was. -/
def Obligations.LdfrmThenCommitIsTheFrame : Prop :=
  ∀ (b : Vector Byte 8) (s : State),
    (∃ t, execAll (ldfrm b) s = .next t ∧ t.cf = s.cf) ∧
    ∃ t, execAll (ldfrm b ++ [.commit]) s = .next t ∧ ∀ k : Fin 8, t.memRead k = b[k]

/-- Rule R139: over every step of the machine CF changes only by a COMMIT, or by a reset; SETPX, LDROW (and so
LDFRM), CLRALL and FILLALL change PB only, and no TICK after them shows the change. -/
def Obligations.OnlyCommitWritesTheFrame : Prop :=
  (∀ (c : Config) (s t : State), stepWith c s = .next t → t.cf ≠ s.cf →
    (∃ w es, s.events = .cmd w :: es ∧ decode w = .ok .commit) ∨ ∃ a es, s.events = .reset a :: es) ∧
  (∀ (i : Instr) (s t : State),
    ((∃ x y v, i = .setpx x y v) ∨ (∃ k b, i = .ldrow k b) ∨ i = .clrall ∨ i = .fillall) →
    exec i s = .next t → t = { s with pb := t.pb, resp := none } ∧
      ∀ (c : Config) (n : Nat), SameScan (s.ticks c n) (t.ticks c n) ∧
        ∀ i k, (t.ticks c n).lit c i k = (s.ticks c n).lit c i k)

/-- Rule R140, derived: a queue of events that runs to its end builds the same pixel buffer as the same queue with
every TICK taken out, wherever the TICKs fall. -/
def Obligations.TicksNeverChangeThePixelBuffer : Prop :=
  ∀ (c : Config) (s t : State) (n : Nat), runWith c n s = .next t → t.events = [] →
    ∃ m u, runWith c m { s with events := dropTicks s.events } = .next u ∧ u.events = [] ∧ u.pb = t.pb

/-! ### Whole machine, 70_reset_and_hazards.md -/

/-- Rule R13: the pins, the logs and the next rows depend on the scan registers and the frame alone: two states
that differ only in PB, the sampler's registers, BZT, the responses and the inputs show the same after a TICK. -/
def Obligations.InputsNeverReachTheDisplay : Prop :=
  ∀ (c : Config) (s t : State), SameScan s t → SameScan (s.tick c) (t.tick c)

/-- Rule R180, derived: between the end of an ADVROW's SCOL and the LATCH edge at the end of its SROW (the first 25
of its 27 pin writes) the previous row shows the new row's data; the 26th write closes the window. -/
def Obligations.GhostWindowShowsThePreviousRow : Prop :=
  ∀ (c : Config) (s : State), s.Inv → s.chips.rsr = maskOf (s.ari - 1) →
    let d := s.memRead (State.rowOf s.ari)
    let u := (s.scol c d).logCall (.row s.arm)
    (∀ n, n ≤ 25 → ∀ i k : Fin 8, (u.pinWrites ((rowFrame s.arm).take n)).lit c i k =
      (decide (k = State.rowOf (s.ari - 1)) && d.getLsbD i)) ∧
    (∀ n, 26 ≤ n → ∀ i k : Fin 8, (u.pinWrites ((rowFrame s.arm).take n)).lit c i k =
      (decide (k = State.rowOf s.ari) && d.getLsbD i))

/-- Rule R170: a reset is one step, whatever step was in progress, and the abandoned step is left where it was: of a
TICK, the pin writes made so far (a prefix of those the whole TICK adds to the trace) have moved the chips, all of
them as far as the whole TICK would; of a command, nothing is left. In every register of the block the result is that
of a reset between steps, both logs are empty, and no pixel is lit. The point of the cut, and what a cut command
leaves, are log entry 18; that the waiting events and the responses already given stay is the model's choice, log
entries 11 and 7. -/
def Obligations.ResetAbandonsTheStepInProgress : Prop :=
  ∀ (c : Config) (s : State) (es : List Event) (a : Abandoned), s.events = .reset a :: es →
    ∃ t, stepWith c s = .next t ∧ t = { s.resetBlock c with events := es, chips := t.chips } ∧
      t.pinTrace = [] ∧ t.callLog = [] ∧ (∀ i k, t.lit c i k = false) ∧
      (∀ n, a = .tick n → (s.tick c).pinTrace = s.pinTrace ++ s.tickWrites c ∧
        t.chips = (s.pinWrites ((s.tickWrites c).take n)).chips ∧
        ((s.tickWrites c).length ≤ n → t.chips = (s.tick c).chips)) ∧
      ((∀ n, a ≠ .tick n) → t.chips = s.chips)
end

