-- ==== Sys2Proof/Laws/Decode.lean ====
section
/-! SUPPORT. What the decoder can answer, said once (rules R62 to R72), so that no proof unfolds it. -/

namespace Sys2Proof

/-- A 4-bit field has one of sixteen values. -/
theorem nibble_cases (x : BitVec 4) : x = 0#4 ∨ x = 1#4 ∨ x = 2#4 ∨ x = 3#4 ∨ x = 4#4 ∨ x = 5#4 ∨ x = 6#4 ∨
    x = 7#4 ∨ x = 8#4 ∨ x = 9#4 ∨ x = 10#4 ∨ x = 11#4 ∨ x = 12#4 ∨ x = 13#4 ∨ x = 14#4 ∨ x = 15#4 := by
  revert x; decide

/-- A word decodes to a command exactly in these ten ways. -/
theorem decode_eq_ok (w : CmdWord) (i : Instr) : decode w = .ok i ↔
    (opField w = 1#4 ∧ zeroP w = 0 ∧ i = .setpx (indexHi w) (indexLo w) (valueBit w)) ∨
    (opField w = 2#4 ∧ lowImm w = 0 ∧ i = .commit) ∨
    (opField w = 3#4 ∧ lowImm w = 0 ∧ i = .clrall) ∨
    (opField w = 4#4 ∧ lowImm w = 0 ∧ i = .fillall) ∨
    (opField w = 5#4 ∧ i = .ldrow (indexHi w) (lowByte w)) ∨
    (opField w = 6#4 ∧ lowByte w = 0 ∧ i = .waspr (indexHi w)) ∨
    (opField w = 7#4 ∧ lowByte w = 0 ∧ i = .isheld (indexHi w)) ∨
    (opField w = 8#4 ∧ lowImm w = 0 ∧ i = .alevel) ∨
    (opField w = 9#4 ∧ i = .setthr (lowImm w)) ∨
    (opField w = 10#4 ∧ i = .setrp (lowImm w)) := by
  rcases nibble_cases (opField w) with h | h | h | h | h | h | h | h | h | h | h | h | h | h | h | h <;>
    simp only [decode, h] <;> simp [whenZero] <;> try (split <;> simp_all [eq_comm])
  all_goals constructor <;> exact Eq.symm

/-- Two words are equal when their bits are. -/
theorem word_eq_iff_bits {n : Nat} (a b : BitVec n) : a = b ↔ ∀ i, i < n → a.getLsbD i = b.getLsbD i :=
  ⟨fun h _ _ => h ▸ rfl, fun h => BitVec.eq_of_getLsbD_eq fun i hi => h i hi⟩

/-- A field is a value exactly when the word's bits at its place are the value's. -/
theorem field_eq_iff_bits (w : CmdWord) (lo n : Nat) (v : BitVec n) :
    w.extractLsb' lo n = v ↔ ∀ i, i < n → w.getLsbD (lo + i) = v.getLsbD i := by
  rw [word_eq_iff_bits]
  constructor <;> intro h i hi <;> simpa [BitVec.getLsbD_extractLsb', hi] using h i hi

end Sys2Proof
end

