-- ==== Sys2Proof/Laws/State.lean ====
section
/-! SUPPORT. What each update of State does to each field, one lemma per field and update, true by unfolding,
so that no later proof unfolds an update of the record. -/

namespace Sys2Proof.Machine.State

section setPb
variable (s : State) (g : Grid)

@[simp] theorem setPb_pb : (s.setPb g).pb = g := rfl
@[simp] theorem setPb_cf : (s.setPb g).cf = s.cf := rfl
@[simp] theorem setPb_ari : (s.setPb g).ari = s.ari := rfl
@[simp] theorem setPb_arm : (s.setPb g).arm = s.arm := rfl
@[simp] theorem setPb_tsra : (s.setPb g).tsra = s.tsra := rfl
@[simp] theorem setPb_rp : (s.setPb g).rp = s.rp := rfl
@[simp] theorem setPb_rpp : (s.setPb g).rpp = s.rpp := rfl
@[simp] theorem setPb_bzt : (s.setPb g).bzt = s.bzt := rfl
@[simp] theorem setPb_raw : (s.setPb g).raw = s.raw := rfl
@[simp] theorem setPb_asamp : (s.setPb g).asamp = s.asamp := rfl
@[simp] theorem setPb_le : (s.setPb g).le = s.le := rfl
@[simp] theorem setPb_ath : (s.setPb g).ath = s.ath := rfl
@[simp] theorem setPb_pins : (s.setPb g).pins = s.pins := rfl
@[simp] theorem setPb_pinTrace : (s.setPb g).pinTrace = s.pinTrace := rfl
@[simp] theorem setPb_callLog : (s.setPb g).callLog = s.callLog := rfl
@[simp] theorem setPb_resp : (s.setPb g).resp = s.resp := rfl
@[simp] theorem setPb_responses : (s.setPb g).responses = s.responses := rfl
@[simp] theorem setPb_chips : (s.setPb g).chips = s.chips := rfl
@[simp] theorem setPb_btn : (s.setPb g).btn = s.btn := rfl
@[simp] theorem setPb_adc : (s.setPb g).adc = s.adc := rfl
@[simp] theorem setPb_events : (s.setPb g).events = s.events := rfl

end setPb

section setCf
variable (s : State) (m : Memory)

@[simp] theorem setCf_pb : (s.setCf m).pb = s.pb := rfl
@[simp] theorem setCf_cf : (s.setCf m).cf = m := rfl
@[simp] theorem setCf_ari : (s.setCf m).ari = s.ari := rfl
@[simp] theorem setCf_arm : (s.setCf m).arm = s.arm := rfl
@[simp] theorem setCf_tsra : (s.setCf m).tsra = s.tsra := rfl
@[simp] theorem setCf_rp : (s.setCf m).rp = s.rp := rfl
@[simp] theorem setCf_rpp : (s.setCf m).rpp = s.rpp := rfl
@[simp] theorem setCf_bzt : (s.setCf m).bzt = s.bzt := rfl
@[simp] theorem setCf_raw : (s.setCf m).raw = s.raw := rfl
@[simp] theorem setCf_asamp : (s.setCf m).asamp = s.asamp := rfl
@[simp] theorem setCf_le : (s.setCf m).le = s.le := rfl
@[simp] theorem setCf_ath : (s.setCf m).ath = s.ath := rfl
@[simp] theorem setCf_pins : (s.setCf m).pins = s.pins := rfl
@[simp] theorem setCf_pinTrace : (s.setCf m).pinTrace = s.pinTrace := rfl
@[simp] theorem setCf_callLog : (s.setCf m).callLog = s.callLog := rfl
@[simp] theorem setCf_resp : (s.setCf m).resp = s.resp := rfl
@[simp] theorem setCf_responses : (s.setCf m).responses = s.responses := rfl
@[simp] theorem setCf_chips : (s.setCf m).chips = s.chips := rfl
@[simp] theorem setCf_btn : (s.setCf m).btn = s.btn := rfl
@[simp] theorem setCf_adc : (s.setCf m).adc = s.adc := rfl
@[simp] theorem setCf_events : (s.setCf m).events = s.events := rfl

end setCf

section setScan
variable (s : State) (i : RowIndex) (m : Byte)

@[simp] theorem setScan_pb : (s.setScan i m).pb = s.pb := rfl
@[simp] theorem setScan_cf : (s.setScan i m).cf = s.cf := rfl
@[simp] theorem setScan_ari : (s.setScan i m).ari = i := rfl
@[simp] theorem setScan_arm : (s.setScan i m).arm = m := rfl
@[simp] theorem setScan_tsra : (s.setScan i m).tsra = s.tsra := rfl
@[simp] theorem setScan_rp : (s.setScan i m).rp = s.rp := rfl
@[simp] theorem setScan_rpp : (s.setScan i m).rpp = s.rpp := rfl
@[simp] theorem setScan_bzt : (s.setScan i m).bzt = s.bzt := rfl
@[simp] theorem setScan_raw : (s.setScan i m).raw = s.raw := rfl
@[simp] theorem setScan_asamp : (s.setScan i m).asamp = s.asamp := rfl
@[simp] theorem setScan_le : (s.setScan i m).le = s.le := rfl
@[simp] theorem setScan_ath : (s.setScan i m).ath = s.ath := rfl
@[simp] theorem setScan_pins : (s.setScan i m).pins = s.pins := rfl
@[simp] theorem setScan_pinTrace : (s.setScan i m).pinTrace = s.pinTrace := rfl
@[simp] theorem setScan_callLog : (s.setScan i m).callLog = s.callLog := rfl
@[simp] theorem setScan_resp : (s.setScan i m).resp = s.resp := rfl
@[simp] theorem setScan_responses : (s.setScan i m).responses = s.responses := rfl
@[simp] theorem setScan_chips : (s.setScan i m).chips = s.chips := rfl
@[simp] theorem setScan_btn : (s.setScan i m).btn = s.btn := rfl
@[simp] theorem setScan_adc : (s.setScan i m).adc = s.adc := rfl
@[simp] theorem setScan_events : (s.setScan i m).events = s.events := rfl

end setScan

section setTsra
variable (s : State) (n : Period)

@[simp] theorem setTsra_pb : (s.setTsra n).pb = s.pb := rfl
@[simp] theorem setTsra_cf : (s.setTsra n).cf = s.cf := rfl
@[simp] theorem setTsra_ari : (s.setTsra n).ari = s.ari := rfl
@[simp] theorem setTsra_arm : (s.setTsra n).arm = s.arm := rfl
@[simp] theorem setTsra_tsra : (s.setTsra n).tsra = n := rfl
@[simp] theorem setTsra_rp : (s.setTsra n).rp = s.rp := rfl
@[simp] theorem setTsra_rpp : (s.setTsra n).rpp = s.rpp := rfl
@[simp] theorem setTsra_bzt : (s.setTsra n).bzt = s.bzt := rfl
@[simp] theorem setTsra_raw : (s.setTsra n).raw = s.raw := rfl
@[simp] theorem setTsra_asamp : (s.setTsra n).asamp = s.asamp := rfl
@[simp] theorem setTsra_le : (s.setTsra n).le = s.le := rfl
@[simp] theorem setTsra_ath : (s.setTsra n).ath = s.ath := rfl
@[simp] theorem setTsra_pins : (s.setTsra n).pins = s.pins := rfl
@[simp] theorem setTsra_pinTrace : (s.setTsra n).pinTrace = s.pinTrace := rfl
@[simp] theorem setTsra_callLog : (s.setTsra n).callLog = s.callLog := rfl
@[simp] theorem setTsra_resp : (s.setTsra n).resp = s.resp := rfl
@[simp] theorem setTsra_responses : (s.setTsra n).responses = s.responses := rfl
@[simp] theorem setTsra_chips : (s.setTsra n).chips = s.chips := rfl
@[simp] theorem setTsra_btn : (s.setTsra n).btn = s.btn := rfl
@[simp] theorem setTsra_adc : (s.setTsra n).adc = s.adc := rfl
@[simp] theorem setTsra_events : (s.setTsra n).events = s.events := rfl

end setTsra

section setRp
variable (s : State) (p : Period)

@[simp] theorem setRp_pb : (s.setRp p).pb = s.pb := rfl
@[simp] theorem setRp_cf : (s.setRp p).cf = s.cf := rfl
@[simp] theorem setRp_ari : (s.setRp p).ari = s.ari := rfl
@[simp] theorem setRp_arm : (s.setRp p).arm = s.arm := rfl
@[simp] theorem setRp_tsra : (s.setRp p).tsra = s.tsra := rfl
@[simp] theorem setRp_rp : (s.setRp p).rp = p := rfl
@[simp] theorem setRp_rpp : (s.setRp p).rpp = s.rpp := rfl
@[simp] theorem setRp_bzt : (s.setRp p).bzt = s.bzt := rfl
@[simp] theorem setRp_raw : (s.setRp p).raw = s.raw := rfl
@[simp] theorem setRp_asamp : (s.setRp p).asamp = s.asamp := rfl
@[simp] theorem setRp_le : (s.setRp p).le = s.le := rfl
@[simp] theorem setRp_ath : (s.setRp p).ath = s.ath := rfl
@[simp] theorem setRp_pins : (s.setRp p).pins = s.pins := rfl
@[simp] theorem setRp_pinTrace : (s.setRp p).pinTrace = s.pinTrace := rfl
@[simp] theorem setRp_callLog : (s.setRp p).callLog = s.callLog := rfl
@[simp] theorem setRp_resp : (s.setRp p).resp = s.resp := rfl
@[simp] theorem setRp_responses : (s.setRp p).responses = s.responses := rfl
@[simp] theorem setRp_chips : (s.setRp p).chips = s.chips := rfl
@[simp] theorem setRp_btn : (s.setRp p).btn = s.btn := rfl
@[simp] theorem setRp_adc : (s.setRp p).adc = s.adc := rfl
@[simp] theorem setRp_events : (s.setRp p).events = s.events := rfl

end setRp

section setRpp
variable (s : State) (p : Period)

@[simp] theorem setRpp_pb : (s.setRpp p).pb = s.pb := rfl
@[simp] theorem setRpp_cf : (s.setRpp p).cf = s.cf := rfl
@[simp] theorem setRpp_ari : (s.setRpp p).ari = s.ari := rfl
@[simp] theorem setRpp_arm : (s.setRpp p).arm = s.arm := rfl
@[simp] theorem setRpp_tsra : (s.setRpp p).tsra = s.tsra := rfl
@[simp] theorem setRpp_rp : (s.setRpp p).rp = s.rp := rfl
@[simp] theorem setRpp_rpp : (s.setRpp p).rpp = p := rfl
@[simp] theorem setRpp_bzt : (s.setRpp p).bzt = s.bzt := rfl
@[simp] theorem setRpp_raw : (s.setRpp p).raw = s.raw := rfl
@[simp] theorem setRpp_asamp : (s.setRpp p).asamp = s.asamp := rfl
@[simp] theorem setRpp_le : (s.setRpp p).le = s.le := rfl
@[simp] theorem setRpp_ath : (s.setRpp p).ath = s.ath := rfl
@[simp] theorem setRpp_pins : (s.setRpp p).pins = s.pins := rfl
@[simp] theorem setRpp_pinTrace : (s.setRpp p).pinTrace = s.pinTrace := rfl
@[simp] theorem setRpp_callLog : (s.setRpp p).callLog = s.callLog := rfl
@[simp] theorem setRpp_resp : (s.setRpp p).resp = s.resp := rfl
@[simp] theorem setRpp_responses : (s.setRpp p).responses = s.responses := rfl
@[simp] theorem setRpp_chips : (s.setRpp p).chips = s.chips := rfl
@[simp] theorem setRpp_btn : (s.setRpp p).btn = s.btn := rfl
@[simp] theorem setRpp_adc : (s.setRpp p).adc = s.adc := rfl
@[simp] theorem setRpp_events : (s.setRpp p).events = s.events := rfl

end setRpp

section setBzt
variable (s : State) (n : BuzzCount)

@[simp] theorem setBzt_pb : (s.setBzt n).pb = s.pb := rfl
@[simp] theorem setBzt_cf : (s.setBzt n).cf = s.cf := rfl
@[simp] theorem setBzt_ari : (s.setBzt n).ari = s.ari := rfl
@[simp] theorem setBzt_arm : (s.setBzt n).arm = s.arm := rfl
@[simp] theorem setBzt_tsra : (s.setBzt n).tsra = s.tsra := rfl
@[simp] theorem setBzt_rp : (s.setBzt n).rp = s.rp := rfl
@[simp] theorem setBzt_rpp : (s.setBzt n).rpp = s.rpp := rfl
@[simp] theorem setBzt_bzt : (s.setBzt n).bzt = n := rfl
@[simp] theorem setBzt_raw : (s.setBzt n).raw = s.raw := rfl
@[simp] theorem setBzt_asamp : (s.setBzt n).asamp = s.asamp := rfl
@[simp] theorem setBzt_le : (s.setBzt n).le = s.le := rfl
@[simp] theorem setBzt_ath : (s.setBzt n).ath = s.ath := rfl
@[simp] theorem setBzt_pins : (s.setBzt n).pins = s.pins := rfl
@[simp] theorem setBzt_pinTrace : (s.setBzt n).pinTrace = s.pinTrace := rfl
@[simp] theorem setBzt_callLog : (s.setBzt n).callLog = s.callLog := rfl
@[simp] theorem setBzt_resp : (s.setBzt n).resp = s.resp := rfl
@[simp] theorem setBzt_responses : (s.setBzt n).responses = s.responses := rfl
@[simp] theorem setBzt_chips : (s.setBzt n).chips = s.chips := rfl
@[simp] theorem setBzt_btn : (s.setBzt n).btn = s.btn := rfl
@[simp] theorem setBzt_adc : (s.setBzt n).adc = s.adc := rfl
@[simp] theorem setBzt_events : (s.setBzt n).events = s.events := rfl

end setBzt

section setRaw
variable (s : State) (k : Fin 5) (n : Bit)

@[simp] theorem setRaw_pb : (s.setRaw k n).pb = s.pb := rfl
@[simp] theorem setRaw_cf : (s.setRaw k n).cf = s.cf := rfl
@[simp] theorem setRaw_ari : (s.setRaw k n).ari = s.ari := rfl
@[simp] theorem setRaw_arm : (s.setRaw k n).arm = s.arm := rfl
@[simp] theorem setRaw_tsra : (s.setRaw k n).tsra = s.tsra := rfl
@[simp] theorem setRaw_rp : (s.setRaw k n).rp = s.rp := rfl
@[simp] theorem setRaw_rpp : (s.setRaw k n).rpp = s.rpp := rfl
@[simp] theorem setRaw_bzt : (s.setRaw k n).bzt = s.bzt := rfl
@[simp] theorem setRaw_raw : (s.setRaw k n).raw = s.raw.set k n := rfl
@[simp] theorem setRaw_asamp : (s.setRaw k n).asamp = s.asamp := rfl
@[simp] theorem setRaw_le : (s.setRaw k n).le = s.le := rfl
@[simp] theorem setRaw_ath : (s.setRaw k n).ath = s.ath := rfl
@[simp] theorem setRaw_pins : (s.setRaw k n).pins = s.pins := rfl
@[simp] theorem setRaw_pinTrace : (s.setRaw k n).pinTrace = s.pinTrace := rfl
@[simp] theorem setRaw_callLog : (s.setRaw k n).callLog = s.callLog := rfl
@[simp] theorem setRaw_resp : (s.setRaw k n).resp = s.resp := rfl
@[simp] theorem setRaw_responses : (s.setRaw k n).responses = s.responses := rfl
@[simp] theorem setRaw_chips : (s.setRaw k n).chips = s.chips := rfl
@[simp] theorem setRaw_btn : (s.setRaw k n).btn = s.btn := rfl
@[simp] theorem setRaw_adc : (s.setRaw k n).adc = s.adc := rfl
@[simp] theorem setRaw_events : (s.setRaw k n).events = s.events := rfl

end setRaw

section setAsamp
variable (s : State) (a : Reading)

@[simp] theorem setAsamp_pb : (s.setAsamp a).pb = s.pb := rfl
@[simp] theorem setAsamp_cf : (s.setAsamp a).cf = s.cf := rfl
@[simp] theorem setAsamp_ari : (s.setAsamp a).ari = s.ari := rfl
@[simp] theorem setAsamp_arm : (s.setAsamp a).arm = s.arm := rfl
@[simp] theorem setAsamp_tsra : (s.setAsamp a).tsra = s.tsra := rfl
@[simp] theorem setAsamp_rp : (s.setAsamp a).rp = s.rp := rfl
@[simp] theorem setAsamp_rpp : (s.setAsamp a).rpp = s.rpp := rfl
@[simp] theorem setAsamp_bzt : (s.setAsamp a).bzt = s.bzt := rfl
@[simp] theorem setAsamp_raw : (s.setAsamp a).raw = s.raw := rfl
@[simp] theorem setAsamp_asamp : (s.setAsamp a).asamp = a := rfl
@[simp] theorem setAsamp_le : (s.setAsamp a).le = s.le := rfl
@[simp] theorem setAsamp_ath : (s.setAsamp a).ath = s.ath := rfl
@[simp] theorem setAsamp_pins : (s.setAsamp a).pins = s.pins := rfl
@[simp] theorem setAsamp_pinTrace : (s.setAsamp a).pinTrace = s.pinTrace := rfl
@[simp] theorem setAsamp_callLog : (s.setAsamp a).callLog = s.callLog := rfl
@[simp] theorem setAsamp_resp : (s.setAsamp a).resp = s.resp := rfl
@[simp] theorem setAsamp_responses : (s.setAsamp a).responses = s.responses := rfl
@[simp] theorem setAsamp_chips : (s.setAsamp a).chips = s.chips := rfl
@[simp] theorem setAsamp_btn : (s.setAsamp a).btn = s.btn := rfl
@[simp] theorem setAsamp_adc : (s.setAsamp a).adc = s.adc := rfl
@[simp] theorem setAsamp_events : (s.setAsamp a).events = s.events := rfl

end setAsamp

section setLe
variable (s : State) (k : Fin 6) (v : Bit)

@[simp] theorem setLe_pb : (s.setLe k v).pb = s.pb := rfl
@[simp] theorem setLe_cf : (s.setLe k v).cf = s.cf := rfl
@[simp] theorem setLe_ari : (s.setLe k v).ari = s.ari := rfl
@[simp] theorem setLe_arm : (s.setLe k v).arm = s.arm := rfl
@[simp] theorem setLe_tsra : (s.setLe k v).tsra = s.tsra := rfl
@[simp] theorem setLe_rp : (s.setLe k v).rp = s.rp := rfl
@[simp] theorem setLe_rpp : (s.setLe k v).rpp = s.rpp := rfl
@[simp] theorem setLe_bzt : (s.setLe k v).bzt = s.bzt := rfl
@[simp] theorem setLe_raw : (s.setLe k v).raw = s.raw := rfl
@[simp] theorem setLe_asamp : (s.setLe k v).asamp = s.asamp := rfl
@[simp] theorem setLe_le : (s.setLe k v).le = s.le.set k v := rfl
@[simp] theorem setLe_ath : (s.setLe k v).ath = s.ath := rfl
@[simp] theorem setLe_pins : (s.setLe k v).pins = s.pins := rfl
@[simp] theorem setLe_pinTrace : (s.setLe k v).pinTrace = s.pinTrace := rfl
@[simp] theorem setLe_callLog : (s.setLe k v).callLog = s.callLog := rfl
@[simp] theorem setLe_resp : (s.setLe k v).resp = s.resp := rfl
@[simp] theorem setLe_responses : (s.setLe k v).responses = s.responses := rfl
@[simp] theorem setLe_chips : (s.setLe k v).chips = s.chips := rfl
@[simp] theorem setLe_btn : (s.setLe k v).btn = s.btn := rfl
@[simp] theorem setLe_adc : (s.setLe k v).adc = s.adc := rfl
@[simp] theorem setLe_events : (s.setLe k v).events = s.events := rfl

end setLe

section setAth
variable (s : State) (t : Threshold)

@[simp] theorem setAth_pb : (s.setAth t).pb = s.pb := rfl
@[simp] theorem setAth_cf : (s.setAth t).cf = s.cf := rfl
@[simp] theorem setAth_ari : (s.setAth t).ari = s.ari := rfl
@[simp] theorem setAth_arm : (s.setAth t).arm = s.arm := rfl
@[simp] theorem setAth_tsra : (s.setAth t).tsra = s.tsra := rfl
@[simp] theorem setAth_rp : (s.setAth t).rp = s.rp := rfl
@[simp] theorem setAth_rpp : (s.setAth t).rpp = s.rpp := rfl
@[simp] theorem setAth_bzt : (s.setAth t).bzt = s.bzt := rfl
@[simp] theorem setAth_raw : (s.setAth t).raw = s.raw := rfl
@[simp] theorem setAth_asamp : (s.setAth t).asamp = s.asamp := rfl
@[simp] theorem setAth_le : (s.setAth t).le = s.le := rfl
@[simp] theorem setAth_ath : (s.setAth t).ath = t := rfl
@[simp] theorem setAth_pins : (s.setAth t).pins = s.pins := rfl
@[simp] theorem setAth_pinTrace : (s.setAth t).pinTrace = s.pinTrace := rfl
@[simp] theorem setAth_callLog : (s.setAth t).callLog = s.callLog := rfl
@[simp] theorem setAth_resp : (s.setAth t).resp = s.resp := rfl
@[simp] theorem setAth_responses : (s.setAth t).responses = s.responses := rfl
@[simp] theorem setAth_chips : (s.setAth t).chips = s.chips := rfl
@[simp] theorem setAth_btn : (s.setAth t).btn = s.btn := rfl
@[simp] theorem setAth_adc : (s.setAth t).adc = s.adc := rfl
@[simp] theorem setAth_events : (s.setAth t).events = s.events := rfl

end setAth

section setBtn
variable (s : State) (k : Fin 5) (v : Bit)

@[simp] theorem setBtn_pb : (s.setBtn k v).pb = s.pb := rfl
@[simp] theorem setBtn_cf : (s.setBtn k v).cf = s.cf := rfl
@[simp] theorem setBtn_ari : (s.setBtn k v).ari = s.ari := rfl
@[simp] theorem setBtn_arm : (s.setBtn k v).arm = s.arm := rfl
@[simp] theorem setBtn_tsra : (s.setBtn k v).tsra = s.tsra := rfl
@[simp] theorem setBtn_rp : (s.setBtn k v).rp = s.rp := rfl
@[simp] theorem setBtn_rpp : (s.setBtn k v).rpp = s.rpp := rfl
@[simp] theorem setBtn_bzt : (s.setBtn k v).bzt = s.bzt := rfl
@[simp] theorem setBtn_raw : (s.setBtn k v).raw = s.raw := rfl
@[simp] theorem setBtn_asamp : (s.setBtn k v).asamp = s.asamp := rfl
@[simp] theorem setBtn_le : (s.setBtn k v).le = s.le := rfl
@[simp] theorem setBtn_ath : (s.setBtn k v).ath = s.ath := rfl
@[simp] theorem setBtn_pins : (s.setBtn k v).pins = s.pins := rfl
@[simp] theorem setBtn_pinTrace : (s.setBtn k v).pinTrace = s.pinTrace := rfl
@[simp] theorem setBtn_callLog : (s.setBtn k v).callLog = s.callLog := rfl
@[simp] theorem setBtn_resp : (s.setBtn k v).resp = s.resp := rfl
@[simp] theorem setBtn_responses : (s.setBtn k v).responses = s.responses := rfl
@[simp] theorem setBtn_chips : (s.setBtn k v).chips = s.chips := rfl
@[simp] theorem setBtn_btn : (s.setBtn k v).btn = s.btn.set k v := rfl
@[simp] theorem setBtn_adc : (s.setBtn k v).adc = s.adc := rfl
@[simp] theorem setBtn_events : (s.setBtn k v).events = s.events := rfl

end setBtn

section setAdc
variable (s : State) (a : Reading)

@[simp] theorem setAdc_pb : (s.setAdc a).pb = s.pb := rfl
@[simp] theorem setAdc_cf : (s.setAdc a).cf = s.cf := rfl
@[simp] theorem setAdc_ari : (s.setAdc a).ari = s.ari := rfl
@[simp] theorem setAdc_arm : (s.setAdc a).arm = s.arm := rfl
@[simp] theorem setAdc_tsra : (s.setAdc a).tsra = s.tsra := rfl
@[simp] theorem setAdc_rp : (s.setAdc a).rp = s.rp := rfl
@[simp] theorem setAdc_rpp : (s.setAdc a).rpp = s.rpp := rfl
@[simp] theorem setAdc_bzt : (s.setAdc a).bzt = s.bzt := rfl
@[simp] theorem setAdc_raw : (s.setAdc a).raw = s.raw := rfl
@[simp] theorem setAdc_asamp : (s.setAdc a).asamp = s.asamp := rfl
@[simp] theorem setAdc_le : (s.setAdc a).le = s.le := rfl
@[simp] theorem setAdc_ath : (s.setAdc a).ath = s.ath := rfl
@[simp] theorem setAdc_pins : (s.setAdc a).pins = s.pins := rfl
@[simp] theorem setAdc_pinTrace : (s.setAdc a).pinTrace = s.pinTrace := rfl
@[simp] theorem setAdc_callLog : (s.setAdc a).callLog = s.callLog := rfl
@[simp] theorem setAdc_resp : (s.setAdc a).resp = s.resp := rfl
@[simp] theorem setAdc_responses : (s.setAdc a).responses = s.responses := rfl
@[simp] theorem setAdc_chips : (s.setAdc a).chips = s.chips := rfl
@[simp] theorem setAdc_btn : (s.setAdc a).btn = s.btn := rfl
@[simp] theorem setAdc_adc : (s.setAdc a).adc = a := rfl
@[simp] theorem setAdc_events : (s.setAdc a).events = s.events := rfl

end setAdc

section setEvents
variable (s : State) (es : List Event)

@[simp] theorem setEvents_pb : (s.setEvents es).pb = s.pb := rfl
@[simp] theorem setEvents_cf : (s.setEvents es).cf = s.cf := rfl
@[simp] theorem setEvents_ari : (s.setEvents es).ari = s.ari := rfl
@[simp] theorem setEvents_arm : (s.setEvents es).arm = s.arm := rfl
@[simp] theorem setEvents_tsra : (s.setEvents es).tsra = s.tsra := rfl
@[simp] theorem setEvents_rp : (s.setEvents es).rp = s.rp := rfl
@[simp] theorem setEvents_rpp : (s.setEvents es).rpp = s.rpp := rfl
@[simp] theorem setEvents_bzt : (s.setEvents es).bzt = s.bzt := rfl
@[simp] theorem setEvents_raw : (s.setEvents es).raw = s.raw := rfl
@[simp] theorem setEvents_asamp : (s.setEvents es).asamp = s.asamp := rfl
@[simp] theorem setEvents_le : (s.setEvents es).le = s.le := rfl
@[simp] theorem setEvents_ath : (s.setEvents es).ath = s.ath := rfl
@[simp] theorem setEvents_pins : (s.setEvents es).pins = s.pins := rfl
@[simp] theorem setEvents_pinTrace : (s.setEvents es).pinTrace = s.pinTrace := rfl
@[simp] theorem setEvents_callLog : (s.setEvents es).callLog = s.callLog := rfl
@[simp] theorem setEvents_resp : (s.setEvents es).resp = s.resp := rfl
@[simp] theorem setEvents_responses : (s.setEvents es).responses = s.responses := rfl
@[simp] theorem setEvents_chips : (s.setEvents es).chips = s.chips := rfl
@[simp] theorem setEvents_btn : (s.setEvents es).btn = s.btn := rfl
@[simp] theorem setEvents_adc : (s.setEvents es).adc = s.adc := rfl
@[simp] theorem setEvents_events : (s.setEvents es).events = es := rfl

end setEvents

section logCall
variable (s : State) (e : Call)

@[simp] theorem logCall_pb : (s.logCall e).pb = s.pb := rfl
@[simp] theorem logCall_cf : (s.logCall e).cf = s.cf := rfl
@[simp] theorem logCall_ari : (s.logCall e).ari = s.ari := rfl
@[simp] theorem logCall_arm : (s.logCall e).arm = s.arm := rfl
@[simp] theorem logCall_tsra : (s.logCall e).tsra = s.tsra := rfl
@[simp] theorem logCall_rp : (s.logCall e).rp = s.rp := rfl
@[simp] theorem logCall_rpp : (s.logCall e).rpp = s.rpp := rfl
@[simp] theorem logCall_bzt : (s.logCall e).bzt = s.bzt := rfl
@[simp] theorem logCall_raw : (s.logCall e).raw = s.raw := rfl
@[simp] theorem logCall_asamp : (s.logCall e).asamp = s.asamp := rfl
@[simp] theorem logCall_le : (s.logCall e).le = s.le := rfl
@[simp] theorem logCall_ath : (s.logCall e).ath = s.ath := rfl
@[simp] theorem logCall_pins : (s.logCall e).pins = s.pins := rfl
@[simp] theorem logCall_pinTrace : (s.logCall e).pinTrace = s.pinTrace := rfl
@[simp] theorem logCall_callLog : (s.logCall e).callLog = s.callLog ++ [e] := rfl
@[simp] theorem logCall_resp : (s.logCall e).resp = s.resp := rfl
@[simp] theorem logCall_responses : (s.logCall e).responses = s.responses := rfl
@[simp] theorem logCall_chips : (s.logCall e).chips = s.chips := rfl
@[simp] theorem logCall_btn : (s.logCall e).btn = s.btn := rfl
@[simp] theorem logCall_adc : (s.logCall e).adc = s.adc := rfl
@[simp] theorem logCall_events : (s.logCall e).events = s.events := rfl

end logCall

section respond
variable (s : State) (v : RespWord)

@[simp] theorem respond_pb : (s.respond v).pb = s.pb := rfl
@[simp] theorem respond_cf : (s.respond v).cf = s.cf := rfl
@[simp] theorem respond_ari : (s.respond v).ari = s.ari := rfl
@[simp] theorem respond_arm : (s.respond v).arm = s.arm := rfl
@[simp] theorem respond_tsra : (s.respond v).tsra = s.tsra := rfl
@[simp] theorem respond_rp : (s.respond v).rp = s.rp := rfl
@[simp] theorem respond_rpp : (s.respond v).rpp = s.rpp := rfl
@[simp] theorem respond_bzt : (s.respond v).bzt = s.bzt := rfl
@[simp] theorem respond_raw : (s.respond v).raw = s.raw := rfl
@[simp] theorem respond_asamp : (s.respond v).asamp = s.asamp := rfl
@[simp] theorem respond_le : (s.respond v).le = s.le := rfl
@[simp] theorem respond_ath : (s.respond v).ath = s.ath := rfl
@[simp] theorem respond_pins : (s.respond v).pins = s.pins := rfl
@[simp] theorem respond_pinTrace : (s.respond v).pinTrace = s.pinTrace := rfl
@[simp] theorem respond_callLog : (s.respond v).callLog = s.callLog := rfl
@[simp] theorem respond_resp : (s.respond v).resp = some v := rfl
@[simp] theorem respond_responses : (s.respond v).responses = s.responses ++ [v] := rfl
@[simp] theorem respond_chips : (s.respond v).chips = s.chips := rfl
@[simp] theorem respond_btn : (s.respond v).btn = s.btn := rfl
@[simp] theorem respond_adc : (s.respond v).adc = s.adc := rfl
@[simp] theorem respond_events : (s.respond v).events = s.events := rfl

end respond

section noResponse
variable (s : State)

@[simp] theorem noResponse_pb : (s.noResponse).pb = s.pb := rfl
@[simp] theorem noResponse_cf : (s.noResponse).cf = s.cf := rfl
@[simp] theorem noResponse_ari : (s.noResponse).ari = s.ari := rfl
@[simp] theorem noResponse_arm : (s.noResponse).arm = s.arm := rfl
@[simp] theorem noResponse_tsra : (s.noResponse).tsra = s.tsra := rfl
@[simp] theorem noResponse_rp : (s.noResponse).rp = s.rp := rfl
@[simp] theorem noResponse_rpp : (s.noResponse).rpp = s.rpp := rfl
@[simp] theorem noResponse_bzt : (s.noResponse).bzt = s.bzt := rfl
@[simp] theorem noResponse_raw : (s.noResponse).raw = s.raw := rfl
@[simp] theorem noResponse_asamp : (s.noResponse).asamp = s.asamp := rfl
@[simp] theorem noResponse_le : (s.noResponse).le = s.le := rfl
@[simp] theorem noResponse_ath : (s.noResponse).ath = s.ath := rfl
@[simp] theorem noResponse_pins : (s.noResponse).pins = s.pins := rfl
@[simp] theorem noResponse_pinTrace : (s.noResponse).pinTrace = s.pinTrace := rfl
@[simp] theorem noResponse_callLog : (s.noResponse).callLog = s.callLog := rfl
@[simp] theorem noResponse_resp : (s.noResponse).resp = none := rfl
@[simp] theorem noResponse_responses : (s.noResponse).responses = s.responses := rfl
@[simp] theorem noResponse_chips : (s.noResponse).chips = s.chips := rfl
@[simp] theorem noResponse_btn : (s.noResponse).btn = s.btn := rfl
@[simp] theorem noResponse_adc : (s.noResponse).adc = s.adc := rfl
@[simp] theorem noResponse_events : (s.noResponse).events = s.events := rfl

end noResponse

section pinWrite
variable (s : State) (w : PinWrite)

@[simp] theorem pinWrite_pb : (s.pinWrite w).pb = s.pb := rfl
@[simp] theorem pinWrite_cf : (s.pinWrite w).cf = s.cf := rfl
@[simp] theorem pinWrite_ari : (s.pinWrite w).ari = s.ari := rfl
@[simp] theorem pinWrite_arm : (s.pinWrite w).arm = s.arm := rfl
@[simp] theorem pinWrite_tsra : (s.pinWrite w).tsra = s.tsra := rfl
@[simp] theorem pinWrite_rp : (s.pinWrite w).rp = s.rp := rfl
@[simp] theorem pinWrite_rpp : (s.pinWrite w).rpp = s.rpp := rfl
@[simp] theorem pinWrite_bzt : (s.pinWrite w).bzt = s.bzt := rfl
@[simp] theorem pinWrite_raw : (s.pinWrite w).raw = s.raw := rfl
@[simp] theorem pinWrite_asamp : (s.pinWrite w).asamp = s.asamp := rfl
@[simp] theorem pinWrite_le : (s.pinWrite w).le = s.le := rfl
@[simp] theorem pinWrite_ath : (s.pinWrite w).ath = s.ath := rfl
@[simp] theorem pinWrite_pins : (s.pinWrite w).pins = s.pins.set w.pin w.level := rfl
@[simp] theorem pinWrite_pinTrace : (s.pinWrite w).pinTrace = s.pinTrace ++ [w] := rfl
@[simp] theorem pinWrite_callLog : (s.pinWrite w).callLog = s.callLog := rfl
@[simp] theorem pinWrite_resp : (s.pinWrite w).resp = s.resp := rfl
@[simp] theorem pinWrite_responses : (s.pinWrite w).responses = s.responses := rfl
@[simp] theorem pinWrite_chips : (s.pinWrite w).chips = if s.pins.rises w then s.chips.edge w.pin s.pins.data else s.chips := rfl
@[simp] theorem pinWrite_btn : (s.pinWrite w).btn = s.btn := rfl
@[simp] theorem pinWrite_adc : (s.pinWrite w).adc = s.adc := rfl
@[simp] theorem pinWrite_events : (s.pinWrite w).events = s.events := rfl

end pinWrite

end Sys2Proof.Machine.State
end

