-- ==== Sys2Proof/Laws/Memory.lean ====
section
/-! SUPPORT. The frame store: a read after a write, the canonical form, and that equal contents are equal data
(rule R41). -/

namespace Sys2Proof.Machine.Memory

@[simp] theorem read_nil (k : Nat) : read [] k = blank := rfl

@[simp] theorem read_cons (a : Nat) (b : Byte) (m : Memory) (k : Nat) :
    read ((a, b) :: m) k = if a = k then b else read m k := rfl

theorem read_clear (m : Memory) (k j : Nat) : read (clear m k) j = if k = j then blank else read m j := by
  induction m with
  | nil => simp [clear]
  | cons c m ih =>
    obtain ⟨a, b⟩ := c
    simp only [clear, ne_eq, decide_not] at ih ⊢
    by_cases hak : a = k
    · subst hak; by_cases haj : a = j <;> simp_all
    · simp only [List.filter_cons, hak, decide_false, Bool.not_false, if_true, read_cons, ih]
      by_cases haj : a = j
      · subst haj; simp [Ne.symm hak]
      · simp [haj]

theorem read_insert_other (m : Memory) {k j : Nat} (v : Byte) (hkj : k ≠ j) :
    read (insert m k v) j = read m j := by
  induction m with
  | nil => simp [insert, hkj]
  | cons c m ih =>
    obtain ⟨a, b⟩ := c
    simp only [insert]
    split <;> simp [hkj, ih]

theorem read_insert_same (m : Memory) (k : Nat) (v : Byte) (h : ∀ c ∈ m, c.1 ≠ k) :
    read (insert m k v) k = v := by
  induction m with
  | nil => simp [insert]
  | cons c m ih =>
    obtain ⟨a, b⟩ := c
    have hak : a ≠ k := h (a, b) (by simp)
    simp only [insert]
    split
    · simp
    · simpa [hak] using ih fun c hc => h c (List.mem_cons_of_mem _ hc)

theorem not_mem_clear (m : Memory) (k : Nat) : ∀ c ∈ clear m k, c.1 ≠ k := by
  intro c hc
  simpa using (List.mem_filter.mp hc).2

/-- A write changes the byte at its address and no other. -/
theorem read_write (m : Memory) (k j : Nat) (v : Byte) :
    read (write m k v) j = if k = j then v else read m j := by
  unfold write
  split
  · rename_i hv; rw [read_clear, hv]
  · by_cases hkj : k = j
    · subst hkj; simp [read_insert_same _ _ _ (not_mem_clear m k)]
    · rw [read_insert_other _ _ hkj, read_clear]; simp [hkj]

theorem wfFrom_mono {lo lo' : Nat} (h : lo' ≤ lo) : ∀ {m : Memory}, wfFrom lo m = true → wfFrom lo' m = true
  | [], _ => rfl
  | (a, b) :: m, hm => by
    simp only [wfFrom, Bool.and_eq_true, decide_eq_true_eq] at hm ⊢
    exact ⟨⟨⟨by omega, hm.1.1.2⟩, hm.1.2⟩, hm.2⟩

theorem wfFrom_clear (k : Nat) : ∀ {m : Memory} {lo : Nat}, wfFrom lo m = true → wfFrom lo (clear m k) = true
  | [], _, _ => rfl
  | (a, b) :: m, lo, hm => by
    have ih := wfFrom_clear k (m := m) (lo := a + 1)
    simp only [wfFrom, Bool.and_eq_true, decide_eq_true_eq] at hm
    by_cases hak : a = k
    · have : clear ((a, b) :: m) k = clear m k := by simp [clear, hak]
      rw [this]; exact wfFrom_mono (by omega) (ih hm.2)
    · have : clear ((a, b) :: m) k = (a, b) :: clear m k := by simp [clear, hak]
      rw [this]; simp [wfFrom, hm.1, ih hm.2]

theorem wfFrom_insert (k : Nat) (v : Byte) (hk : k < 8) (hv : v ≠ blank) : ∀ {m : Memory} {lo : Nat},
    lo ≤ k → (∀ c ∈ m, c.1 ≠ k) → wfFrom lo m = true → wfFrom lo (insert m k v) = true
  | [], lo, hlo, _, _ => by simp [insert, wfFrom, hlo, hk, hv]
  | (a, b) :: m, lo, hlo, hne, hm => by
    have hak : a ≠ k := hne (a, b) (by simp)
    simp only [wfFrom, Bool.and_eq_true, decide_eq_true_eq] at hm
    simp only [insert]
    split
    · simp [wfFrom, hlo, hk, hv, hm.1, hm.2]; omega
    · have ih := wfFrom_insert k v hk hv (m := m) (lo := a + 1) (by omega)
        (fun c hc => hne c (List.mem_cons_of_mem _ hc)) hm.2
      simp [wfFrom, hm.1, ih]

/-- A write at an address of the store keeps the canonical form. -/
theorem wf_write {m : Memory} (h : wf m = true) {k : Nat} (hk : k < 8) (v : Byte) : wf (write m k v) = true := by
  unfold write
  split
  · exact wfFrom_clear k h
  · rename_i hv
    exact wfFrom_insert k v hk hv (Nat.zero_le _) (not_mem_clear m k) (wfFrom_clear k h)

theorem read_below {a : Nat} : ∀ {m : Memory} {lo : Nat}, wfFrom lo m = true → a < lo → read m a = blank
  | [], _, _, _ => rfl
  | (b, v) :: m, lo, hm, ha => by
    simp only [wfFrom, Bool.and_eq_true, decide_eq_true_eq] at hm
    have : b ≠ a := by omega
    simp [this, read_below hm.2 (show a < b + 1 by omega)]

theorem eq_of_wfFrom : ∀ {m m' : Memory} {lo lo' : Nat}, wfFrom lo m = true → wfFrom lo' m' = true →
    (∀ k, read m k = read m' k) → m = m'
  | [], [], _, _, _, _, _ => rfl
  | [], (a, b) :: m', _, lo', _, h', he => by
    simp only [wfFrom, Bool.and_eq_true, decide_eq_true_eq] at h'
    have := he a
    simp at this
    exact absurd this.symm h'.1.2
  | (a, b) :: m, [], _, _, h, _, he => by
    simp only [wfFrom, Bool.and_eq_true, decide_eq_true_eq] at h
    have := he a
    simp at this
    exact absurd this h.1.2
  | (a, b) :: m, (a', b') :: m', _, _, h, h', he => by
    simp only [wfFrom, Bool.and_eq_true, decide_eq_true_eq] at h h'
    have haa : a = a' := by
      rcases Nat.lt_trichotomy a a' with hlt | heq | hgt
      · have := he a
        have hne : a' ≠ a := by omega
        simp [hne, read_below h'.2 (show a < a' + 1 by omega)] at this
        exact absurd this h.1.2
      · exact heq
      · have := he a'
        have hne : a ≠ a' := by omega
        simp [hne, read_below h.2 (show a' < a + 1 by omega)] at this
        exact absurd this.symm h'.1.2
    subst haa
    have hbb : b = b' := by simpa using he a
    subst hbb
    have : m = m' := eq_of_wfFrom h.2 h'.2 fun k => by
      by_cases hk : a = k
      · subst hk; rw [read_below h.2 (by omega), read_below h'.2 (by omega)]
      · simpa [hk] using he k
    rw [this]

/-- Two stores in canonical form with the same contents are the same data. -/
theorem eq_of_wf {m m' : Memory} (h : wf m = true) (h' : wf m' = true) (he : ∀ k, read m k = read m' k) :
    m = m' := eq_of_wfFrom h h' he

/-- In canonical form nothing is listed past the last address. -/
theorem read_past : ∀ {m : Memory} {lo a : Nat}, wfFrom lo m = true → 8 ≤ a → read m a = blank
  | [], _, _, _, _ => rfl
  | (b, v) :: m, _, a, hm, ha => by
    simp only [wfFrom, Bool.and_eq_true, decide_eq_true_eq] at hm
    have : b ≠ a := by omega
    simp [this, read_past hm.2 ha]

end Sys2Proof.Machine.Memory

namespace Sys2Proof.Machine.State

/-- A MemRead after a MemWrite (rule R41). -/
@[simp] theorem memRead_memWrite (s : State) (k j : Fin 8) (v : Byte) :
    (s.memWrite k v).memRead j = if k = j then v else s.memRead j := by
  simp [memRead, memWrite, Memory.read_write, Fin.ext_iff]

/-- The canonical form is kept by MemWrite. -/
theorem wf_memWrite {s : State} (h : Memory.wf s.cf = true) (k : Fin 8) (v : Byte) :
    Memory.wf (s.memWrite k v).cf = true := Memory.wf_write h k.isLt v

/-- The canonical form holds at reset. -/
theorem wf_reset : Memory.wf State.reset.cf = true := rfl

end Sys2Proof.Machine.State
end

