-- ==== Sys2Proof/Laws/Ops.lean ====
section
/-! SUPPORT. What the shared operations on the stores, the pins and the logs do, said once each. -/

namespace Sys2Proof.Machine

/-! ### Pin registers -/

theorem Pins.get_set (r : Pins) (p q : Pin) (v : Bit) : (r.set p v).get q = if p = q then v else r.get q := by
  cases p <;> cases q <;> rfl

/-- The new bit enters at bit 7, the rest move down one place (rule R86). -/
theorem getLsbD_shiftIn (d : Bit) (r : Byte) (j : Nat) :
    (shiftIn d r).getLsbD j = if j < 7 then r.getLsbD (j + 1) else (decide (j = 7) && d) := by
  simp only [shiftIn, BitVec.getLsbD_append, BitVec.getLsbD_extractLsb']
  split
  · simp_all [Nat.add_comm]
  · by_cases hj : j = 7
    · subst hj; simp
    · have : j - 7 ≠ 0 := by omega
      simp [hj, this]

/-- Eight bits shifted in, bit 0 first, leave the byte: nothing of the old contents is left (rules R86, R87). -/
theorem shiftIn_octet (b r : Byte) :
    octet.foldl (fun r i => shiftIn (b.getLsbD i) r) r = b := by
  apply BitVec.eq_of_getLsbD_eq
  intro i hi
  change (shiftIn (b.getLsbD 7) (shiftIn (b.getLsbD 6) (shiftIn (b.getLsbD 5) (shiftIn (b.getLsbD 4)
    (shiftIn (b.getLsbD 3) (shiftIn (b.getLsbD 2) (shiftIn (b.getLsbD 1) (shiftIn (b.getLsbD 0) r)))))))).getLsbD i
      = b.getLsbD i
  simp only [getLsbD_shiftIn]
  have : i = 0 ∨ i = 1 ∨ i = 2 ∨ i = 3 ∨ i = 4 ∨ i = 5 ∨ i = 6 ∨ i = 7 := by omega
  rcases this with rfl | rfl | rfl | rfl | rfl | rfl | rfl | rfl <;> simp

namespace State

/-! ### The pixel store -/

/-- One cell is written and no other (rule R130). -/
theorem pixel_setPixel (s : State) (i k i' k' : Fin 8) (v : Bit) :
    (s.setPixel i k v).pixel i' k' = if i = i' ∧ k = k' then v else s.pixel i' k' := by
  simp only [setPixel, pixel, setPb_pb, Fin.getElem_fin, Vector.getElem_set, Fin.ext_iff]
  by_cases hi : i.val = i'.val
  · have : i = i' := Fin.ext hi
    subst this
    by_cases hk : k.val = k'.val <;> simp [hk]
  · simp [hi]

theorem setPixel_frame (s : State) (i k : Fin 8) (v : Bit) :
    s.setPixel i k v = s.setPb (s.setPixel i k v).pb := rfl

/-- A display row is written and no other (rule R135). -/
theorem pixel_setPixelRow (s : State) (k : Fin 8) (b : Byte) (i j : Fin 8) :
    (s.setPixelRow k b).pixel i j = if k = j then b.getLsbD i else s.pixel i j := by
  simp only [setPixelRow, octet, List.foldl_cons, List.foldl_nil, pixel_setPixel]
  by_cases hk : k = j
  · subst hk; fin_cases i <;> simp
  · simp [hk]

theorem foldl_setPixel_frame (f : Fin 8 → Bit) (k : Fin 8) (is : List (Fin 8)) (s : State) :
    is.foldl (fun s i => s.setPixel i k (f i)) s =
      s.setPb (is.foldl (fun s i => s.setPixel i k (f i)) s).pb := by
  induction is generalizing s with
  | nil => rfl
  | cons i is ih => rw [List.foldl_cons, ih]; rfl

theorem setPixelRow_frame (s : State) (k : Fin 8) (b : Byte) :
    s.setPixelRow k b = s.setPb (s.setPixelRow k b).pb := foldl_setPixel_frame _ _ _ _

/-- Every cell is written (rules R133, R134). -/
theorem pixel_setAllPixels (s : State) (v : Bit) (i k : Fin 8) : (s.setAllPixels v).pixel i k = v := by
  simp [setAllPixels, pixel]

/-- Two buffers with the same cells are the same data. -/
theorem pb_eq_of_pixel {s t : State} (h : ∀ i k, s.pixel i k = t.pixel i k) : s.pb = t.pb := by
  apply Vector.ext
  intro i hi
  apply Vector.ext
  intro k hk
  exact h ⟨i, hi⟩ ⟨k, hk⟩

/-- Bit `i` of the packed byte is the pixel at position `i` (rule R43). -/
theorem getLsbD_packedRow (s : State) (k i : Fin 8) : (s.packedRow k).getLsbD i = s.pixel i k := by
  simp only [packedRow, BitVec.getLsbD_append]
  fin_cases i <;> simp

theorem packedRow_congr {s t : State} (h : s.pb = t.pb) (k : Fin 8) : s.packedRow k = t.packedRow k := by
  simp [packedRow, pixel, h]

/-! ### COMMIT's eight writes -/

/-- The eight MemWrites of COMMIT, as a function of the store (rule R132). -/
def commitRows (s : State) : State := octet.foldl (fun t k => t.memWrite k (t.packedRow k)) s

theorem commitRows_frame (s : State) : s.commitRows = s.setCf s.commitRows.cf := rfl

/-- Every byte of the frame is the packed row. -/
theorem memRead_commitRows (s : State) (k : Fin 8) : s.commitRows.memRead k = s.packedRow k := by
  have hp : ∀ (t : State) (j k : Fin 8) (v : Byte), (t.memWrite j v).packedRow k = t.packedRow k :=
    fun _ _ _ _ => rfl
  simp only [commitRows, octet, List.foldl_cons, List.foldl_nil, memRead_memWrite, hp]
  fin_cases k <;> simp

theorem wf_commitRows {s : State} (h : Memory.wf s.cf = true) : Memory.wf s.commitRows.cf = true := by
  simp only [commitRows, octet, List.foldl_cons, List.foldl_nil]
  exact wf_memWrite (wf_memWrite (wf_memWrite (wf_memWrite (wf_memWrite (wf_memWrite (wf_memWrite
    (wf_memWrite h 0 _) 1 _) 2 _) 3 _) 4 _) 5 _) 6 _) 7 _

theorem read_commitRows_past (s : State) {a : Nat} (ha : 8 ≤ a) :
    Memory.read s.commitRows.cf a = Memory.read s.cf a := by
  have h : ∀ (t : State) (k : Fin 8) (v : Byte), Memory.read (t.memWrite k v).cf a = Memory.read t.cf a := by
    intro t k v
    have : k.val ≠ a := by omega
    simp [memWrite, Memory.read_write, this]
  simp only [commitRows, octet, List.foldl_cons, List.foldl_nil, h]

@[simp] theorem memRead_noResponse (s : State) (k : Fin 8) : s.noResponse.memRead k = s.memRead k := rfl
@[simp] theorem pixel_noResponse (s : State) (i k : Fin 8) : s.noResponse.pixel i k = s.pixel i k := rfl

/-! ### Sequences of pin writes -/

@[simp] theorem pinWrites_nil (s : State) : s.pinWrites [] = s := rfl

@[simp] theorem pinWrites_cons (s : State) (w : PinWrite) (ws : List PinWrite) :
    s.pinWrites (w :: ws) = (s.pinWrite w).pinWrites ws := rfl

theorem pinWrites_append (s : State) (ws us : List PinWrite) :
    s.pinWrites (ws ++ us) = (s.pinWrites ws).pinWrites us := List.foldl_append ..

/-- A sequence of pin writes extends the trace by exactly these writes; of the rest it touches only the pin
registers and the chips (rules R6, R30). -/
theorem pinWrites_frame (s : State) (ws : List PinWrite) :
    s.pinWrites ws = { s with
      pins := (s.pinWrites ws).pins
      pinTrace := s.pinTrace ++ ws
      chips := (s.pinWrites ws).chips } := by
  induction ws generalizing s with
  | nil => simp
  | cons w ws ih =>
    rw [pinWrites_cons, ih]
    simp [pinWrite]

/-- The pin registers and the chips after a sequence of pin writes depend on the pin registers and the chips before
it alone (rules R30, R86, R87). -/
theorem pinWrites_wire (ws : List PinWrite) {s t : State} (hp : t.pins = s.pins) (hc : t.chips = s.chips) :
    (t.pinWrites ws).pins = (s.pinWrites ws).pins ∧ (t.pinWrites ws).chips = (s.pinWrites ws).chips := by
  induction ws generalizing s t with
  | nil => exact ⟨hp, hc⟩
  | cons w ws ih => exact ih (by simp [hp]) (by simp [hp, hc])

/-! ### Sticky flags -/

@[simp] theorem latchWhen_pb (s : State) (c : Bool) (k : Fin 6) : (s.latchWhen c k).pb = s.pb := by
  unfold latchWhen; split <;> rfl
@[simp] theorem latchWhen_cf (s : State) (c : Bool) (k : Fin 6) : (s.latchWhen c k).cf = s.cf := by
  unfold latchWhen; split <;> rfl
@[simp] theorem latchWhen_ari (s : State) (c : Bool) (k : Fin 6) : (s.latchWhen c k).ari = s.ari := by
  unfold latchWhen; split <;> rfl
@[simp] theorem latchWhen_arm (s : State) (c : Bool) (k : Fin 6) : (s.latchWhen c k).arm = s.arm := by
  unfold latchWhen; split <;> rfl
@[simp] theorem latchWhen_tsra (s : State) (c : Bool) (k : Fin 6) : (s.latchWhen c k).tsra = s.tsra := by
  unfold latchWhen; split <;> rfl
@[simp] theorem latchWhen_rp (s : State) (c : Bool) (k : Fin 6) : (s.latchWhen c k).rp = s.rp := by
  unfold latchWhen; split <;> rfl
@[simp] theorem latchWhen_rpp (s : State) (c : Bool) (k : Fin 6) : (s.latchWhen c k).rpp = s.rpp := by
  unfold latchWhen; split <;> rfl
@[simp] theorem latchWhen_bzt (s : State) (c : Bool) (k : Fin 6) : (s.latchWhen c k).bzt = s.bzt := by
  unfold latchWhen; split <;> rfl
@[simp] theorem latchWhen_raw (s : State) (c : Bool) (k : Fin 6) : (s.latchWhen c k).raw = s.raw := by
  unfold latchWhen; split <;> rfl
@[simp] theorem latchWhen_asamp (s : State) (c : Bool) (k : Fin 6) : (s.latchWhen c k).asamp = s.asamp := by
  unfold latchWhen; split <;> rfl
@[simp] theorem latchWhen_ath (s : State) (c : Bool) (k : Fin 6) : (s.latchWhen c k).ath = s.ath := by
  unfold latchWhen; split <;> rfl
@[simp] theorem latchWhen_pins (s : State) (c : Bool) (k : Fin 6) : (s.latchWhen c k).pins = s.pins := by
  unfold latchWhen; split <;> rfl
@[simp] theorem latchWhen_pinTrace (s : State) (c : Bool) (k : Fin 6) : (s.latchWhen c k).pinTrace = s.pinTrace := by
  unfold latchWhen; split <;> rfl
@[simp] theorem latchWhen_callLog (s : State) (c : Bool) (k : Fin 6) : (s.latchWhen c k).callLog = s.callLog := by
  unfold latchWhen; split <;> rfl
@[simp] theorem latchWhen_resp (s : State) (c : Bool) (k : Fin 6) : (s.latchWhen c k).resp = s.resp := by
  unfold latchWhen; split <;> rfl
@[simp] theorem latchWhen_responses (s : State) (c : Bool) (k : Fin 6) : (s.latchWhen c k).responses = s.responses := by
  unfold latchWhen; split <;> rfl
@[simp] theorem latchWhen_chips (s : State) (c : Bool) (k : Fin 6) : (s.latchWhen c k).chips = s.chips := by
  unfold latchWhen; split <;> rfl
@[simp] theorem latchWhen_btn (s : State) (c : Bool) (k : Fin 6) : (s.latchWhen c k).btn = s.btn := by
  unfold latchWhen; split <;> rfl
@[simp] theorem latchWhen_adc (s : State) (c : Bool) (k : Fin 6) : (s.latchWhen c k).adc = s.adc := by
  unfold latchWhen; split <;> rfl
@[simp] theorem latchWhen_events (s : State) (c : Bool) (k : Fin 6) : (s.latchWhen c k).events = s.events := by
  unfold latchWhen; split <;> rfl

/-- The flag is the old one or the condition (rule R27). -/
theorem getElem_latchWhen (s : State) (c : Bool) (k j : Fin 6) :
    (s.latchWhen c k).le[j] = (s.le[j] || (c && decide (k = j))) := by
  unfold latchWhen
  split
  · rename_i hc
    simp only [setLe_le, Fin.getElem_fin, Vector.getElem_set, hc, Bool.true_and, Fin.ext_iff]
    by_cases h : k.val = j.val <;> simp [h]
  · rename_i hc
    simp [hc]

end State

/-! ### Rotation -/

/-- The mask of the next row is the rotated mask (rule R17). -/
theorem ror8_maskOf (i : RowIndex) : ror8 (maskOf i) = maskOf (i + 1) := by
  revert i; decide

theorem oneHot_maskOf (i : RowIndex) : oneHot (maskOf i) := by
  revert i; decide

/-- The mask of a row selects that display row and no other (rules R17, R88). -/
theorem bit_maskOf (i : RowIndex) (k : Fin 8) :
    (maskOf i).getLsbD (7 - k.val) = decide (k = State.rowOf i) := by
  revert i k; decide

end Sys2Proof.Machine
end

