-- ==== Sys2Proof/Laws/Serial.lean ====
section
/-! SUPPORT. What one serial transfer and one ADVROW leave behind (rules R80, R83, R86, R87, R90). -/

namespace Sys2Proof.Machine.State

/-- The state after an SCOL, whole: the log, the trace, the pin levels, and the chips. LATCH rises unless it was
already high, which no rule leaves it. -/
theorem scol_eq (c : Config) (b : Byte) (s : State) :
    s.scol c b = { s with
      callLog := s.callLog ++ [.col b]
      pinTrace := s.pinTrace ++ colFrame c b
      pins := ⟨b.getLsbD 7, true, s.pins.clkRow, false, !c.oeDisableLevel⟩
      chips := if s.pins.latch then ⟨b, s.chips.colOut, s.chips.rsr, s.chips.rowOut⟩
        else ⟨b, b, s.chips.rsr, s.chips.rsr⟩ } := by
  have hb : ∀ r, shiftIn _ (shiftIn _ (shiftIn _ (shiftIn _ (shiftIn _ (shiftIn _ (shiftIn _
    (shiftIn _ r))))))) = b := shiftIn_octet b
  rw [scol, pinWrites_frame]
  simp only [colFrame, octet, List.flatMap_cons, List.flatMap_nil, List.cons_append, List.nil_append,
    List.append_nil, pinWrites_cons, pinWrites_nil, pinWrite_pins, pinWrite_chips, logCall_pins, logCall_chips,
    logCall_pinTrace]
  by_cases h : s.pins.latch <;>
    simp [Pins.set, Pins.rises, Pins.get, Chips.edge, logCall, h] <;> exact hb _

/-- The state after an SROW, whole, when CLK_ROW was low, as every rule leaves it. -/
theorem srow_eq (b : Byte) (s : State) (h : s.pins.clkRow = false) :
    s.srow b = { s with
      callLog := s.callLog ++ [.row b]
      pinTrace := s.pinTrace ++ rowFrame b
      pins := ⟨b.getLsbD 7, s.pins.clkCol, false, false, s.pins.oeN⟩
      chips := ⟨s.chips.csr, s.chips.csr, b, b⟩ } := by
  have hb : ∀ r, shiftIn _ (shiftIn _ (shiftIn _ (shiftIn _ (shiftIn _ (shiftIn _ (shiftIn _
    (shiftIn _ r))))))) = b := shiftIn_octet b
  rw [srow, pinWrites_frame]
  simp only [rowFrame, octet, List.flatMap_cons, List.flatMap_nil, List.cons_append, List.nil_append,
    List.append_nil, pinWrites_cons, pinWrites_nil, pinWrite_pins, pinWrite_chips, logCall_pins, logCall_chips,
    logCall_pinTrace]
  simp [Pins.set, Pins.rises, Pins.get, Chips.edge, logCall, h]
  exact hb _

/-- What ADVROW never touches, from any state. -/
theorem advRow_frame (c : Config) (s : State) :
    s.advRow c = { s with
      ari := s.ari + 1
      arm := ror8 s.arm
      callLog := s.callLog ++ [.col (s.memRead (rowOf s.ari)), .row s.arm]
      pinTrace := s.pinTrace ++ (colFrame c (s.memRead (rowOf s.ari)) ++ rowFrame s.arm)
      pins := (s.advRow c).pins
      chips := (s.advRow c).chips } := by
  simp only [advRow, srow]
  rw [pinWrites_frame]
  simp [scol_eq, logCall, setScan]

/-- The state after an ADVROW, whole, when LATCH and CLK_ROW were low. -/
theorem advRow_eq (c : Config) (s : State) (hl : s.pins.latch = false) (hr : s.pins.clkRow = false) :
    s.advRow c = { s with
      ari := s.ari + 1
      arm := ror8 s.arm
      callLog := s.callLog ++ [.col (s.memRead (rowOf s.ari)), .row s.arm]
      pinTrace := s.pinTrace ++ (colFrame c (s.memRead (rowOf s.ari)) ++ rowFrame s.arm)
      pins := ⟨s.arm.getLsbD 7, true, false, false, !c.oeDisableLevel⟩
      chips := ⟨s.memRead (rowOf s.ari), s.memRead (rowOf s.ari), s.arm, s.arm⟩ } := by
  simp only [advRow, scol_eq]
  rw [srow_eq _ _ (by simpa using hr)]
  simp [setScan, hl]

/-- What an ADVROW leaves on the pins and in the chips depends on them, on the byte it sends and on the mask
alone. -/
theorem advRow_wire (c : Config) {s t : State} (hp : t.pins = s.pins) (hc : t.chips = s.chips)
    (hd : t.memRead (rowOf t.ari) = s.memRead (rowOf s.ari)) (hm : t.arm = s.arm) :
    (t.advRow c).pins = (s.advRow c).pins ∧ (t.advRow c).chips = (s.advRow c).chips := by
  simp only [advRow, setScan_pins, setScan_chips, hd, hm, scol, srow]
  obtain ⟨a, b⟩ := pinWrites_wire (colFrame c (s.memRead (rowOf s.ari)))
    (s := s.logCall (.col (s.memRead (rowOf s.ari)))) (t := t.logCall (.col (s.memRead (rowOf s.ari)))) hp hc
  exact pinWrites_wire (rowFrame s.arm) a b

/-- ADVROW leaves the pins and the chips as its two transfers leave them (rule R90). -/
theorem advRow_transfers (c : Config) (s : State) :
    (s.advRow c).pins = ((s.scol c (s.memRead (rowOf s.ari))).srow s.arm).pins ∧
    (s.advRow c).chips = ((s.scol c (s.memRead (rowOf s.ari))).srow s.arm).chips := by
  constructor <;> simp only [advRow, setScan_pins, setScan_chips, scol_eq]

/-- The pin levels after an SROW, from any state (rule R84). -/
theorem srow_pins (b : Byte) (s : State) :
    (s.srow b).pins = ⟨b.getLsbD 7, s.pins.clkCol, false, false, s.pins.oeN⟩ := by
  rw [srow, pinWrites_frame]
  simp only [rowFrame, octet, List.flatMap_cons, List.flatMap_nil, List.cons_append, List.nil_append,
    List.append_nil, pinWrites_cons, pinWrites_nil, pinWrite_pins, logCall_pins]
  simp [Pins.set]

/-- An ADVROW moves the pins and the chips by its two transfers' pin writes alone. -/
theorem advRow_wire_writes (c : Config) (s : State) :
    (s.advRow c).pins = (s.pinWrites (colFrame c (s.memRead (rowOf s.ari)) ++ rowFrame s.arm)).pins ∧
    (s.advRow c).chips = (s.pinWrites (colFrame c (s.memRead (rowOf s.ari)) ++ rowFrame s.arm)).chips := by
  simp only [advRow, setScan_pins, setScan_chips, scol, srow, pinWrites_append]
  obtain ⟨a, b⟩ := pinWrites_wire (colFrame c (s.memRead (rowOf s.ari))) (s := s)
    (t := s.logCall (.col (s.memRead (rowOf s.ari)))) rfl rfl
  exact pinWrites_wire (rowFrame s.arm) a b

@[simp] theorem length_colFrame (c : Config) (b : Byte) : (colFrame c b).length = 28 := rfl
@[simp] theorem length_rowFrame (b : Byte) : (rowFrame b).length = 27 := rfl

end Sys2Proof.Machine.State
end

