-- ==== Sys2Proof/Laws/Sampler.lean ====
section
/-! SUPPORT. What one SAMPLE does (rules R100 to R102), said once. -/

namespace Sys2Proof.Machine.State

/-! ### Its two parts, field by field -/

@[simp] theorem sampleDig_pb (k : Fin 5) (n : Bit) (s : State) : (s.sampleDig k n).pb = s.pb := by
  simp [sampleDig]
@[simp] theorem sampleDig_cf (k : Fin 5) (n : Bit) (s : State) : (s.sampleDig k n).cf = s.cf := by
  simp [sampleDig]
@[simp] theorem sampleDig_ari (k : Fin 5) (n : Bit) (s : State) : (s.sampleDig k n).ari = s.ari := by
  simp [sampleDig]
@[simp] theorem sampleDig_arm (k : Fin 5) (n : Bit) (s : State) : (s.sampleDig k n).arm = s.arm := by
  simp [sampleDig]
@[simp] theorem sampleDig_tsra (k : Fin 5) (n : Bit) (s : State) : (s.sampleDig k n).tsra = s.tsra := by
  simp [sampleDig]
@[simp] theorem sampleDig_rp (k : Fin 5) (n : Bit) (s : State) : (s.sampleDig k n).rp = s.rp := by
  simp [sampleDig]
@[simp] theorem sampleDig_rpp (k : Fin 5) (n : Bit) (s : State) : (s.sampleDig k n).rpp = s.rpp := by
  simp [sampleDig]
@[simp] theorem sampleDig_bzt (k : Fin 5) (n : Bit) (s : State) : (s.sampleDig k n).bzt = s.bzt := by
  simp [sampleDig]
@[simp] theorem sampleDig_ath (k : Fin 5) (n : Bit) (s : State) : (s.sampleDig k n).ath = s.ath := by
  simp [sampleDig]
@[simp] theorem sampleDig_pins (k : Fin 5) (n : Bit) (s : State) : (s.sampleDig k n).pins = s.pins := by
  simp [sampleDig]
@[simp] theorem sampleDig_pinTrace (k : Fin 5) (n : Bit) (s : State) : (s.sampleDig k n).pinTrace = s.pinTrace := by
  simp [sampleDig]
@[simp] theorem sampleDig_callLog (k : Fin 5) (n : Bit) (s : State) : (s.sampleDig k n).callLog = s.callLog := by
  simp [sampleDig]
@[simp] theorem sampleDig_resp (k : Fin 5) (n : Bit) (s : State) : (s.sampleDig k n).resp = s.resp := by
  simp [sampleDig]
@[simp] theorem sampleDig_responses (k : Fin 5) (n : Bit) (s : State) : (s.sampleDig k n).responses = s.responses := by
  simp [sampleDig]
@[simp] theorem sampleDig_chips (k : Fin 5) (n : Bit) (s : State) : (s.sampleDig k n).chips = s.chips := by
  simp [sampleDig]
@[simp] theorem sampleDig_btn (k : Fin 5) (n : Bit) (s : State) : (s.sampleDig k n).btn = s.btn := by
  simp [sampleDig]
@[simp] theorem sampleDig_adc (k : Fin 5) (n : Bit) (s : State) : (s.sampleDig k n).adc = s.adc := by
  simp [sampleDig]
@[simp] theorem sampleDig_events (k : Fin 5) (n : Bit) (s : State) : (s.sampleDig k n).events = s.events := by
  simp [sampleDig]
@[simp] theorem sampleDig_asamp (k : Fin 5) (n : Bit) (s : State) : (s.sampleDig k n).asamp = s.asamp := by
  simp [sampleDig]
@[simp] theorem sampleDig_raw (k : Fin 5) (n : Bit) (s : State) : (s.sampleDig k n).raw = s.raw.set k n := by
  simp [sampleDig]

/-- A digital part sets its own flag on a press edge and touches no other (rule R100). -/
theorem getElem_sampleDig_le (k : Fin 5) (n : Bit) (s : State) (m : Fin 6) : (s.sampleDig k n).le[m] =
    (s.le[m] || (pressEdge s.raw[k] n && decide (digitalAsChannel k = m))) :=
  getElem_latchWhen ..

@[simp] theorem sampleAna_pb (a : Reading) (s : State) : (s.sampleAna a).pb = s.pb := by
  simp [sampleAna]
@[simp] theorem sampleAna_cf (a : Reading) (s : State) : (s.sampleAna a).cf = s.cf := by
  simp [sampleAna]
@[simp] theorem sampleAna_ari (a : Reading) (s : State) : (s.sampleAna a).ari = s.ari := by
  simp [sampleAna]
@[simp] theorem sampleAna_arm (a : Reading) (s : State) : (s.sampleAna a).arm = s.arm := by
  simp [sampleAna]
@[simp] theorem sampleAna_tsra (a : Reading) (s : State) : (s.sampleAna a).tsra = s.tsra := by
  simp [sampleAna]
@[simp] theorem sampleAna_rp (a : Reading) (s : State) : (s.sampleAna a).rp = s.rp := by
  simp [sampleAna]
@[simp] theorem sampleAna_rpp (a : Reading) (s : State) : (s.sampleAna a).rpp = s.rpp := by
  simp [sampleAna]
@[simp] theorem sampleAna_bzt (a : Reading) (s : State) : (s.sampleAna a).bzt = s.bzt := by
  simp [sampleAna]
@[simp] theorem sampleAna_ath (a : Reading) (s : State) : (s.sampleAna a).ath = s.ath := by
  simp [sampleAna]
@[simp] theorem sampleAna_pins (a : Reading) (s : State) : (s.sampleAna a).pins = s.pins := by
  simp [sampleAna]
@[simp] theorem sampleAna_pinTrace (a : Reading) (s : State) : (s.sampleAna a).pinTrace = s.pinTrace := by
  simp [sampleAna]
@[simp] theorem sampleAna_callLog (a : Reading) (s : State) : (s.sampleAna a).callLog = s.callLog := by
  simp [sampleAna]
@[simp] theorem sampleAna_resp (a : Reading) (s : State) : (s.sampleAna a).resp = s.resp := by
  simp [sampleAna]
@[simp] theorem sampleAna_responses (a : Reading) (s : State) : (s.sampleAna a).responses = s.responses := by
  simp [sampleAna]
@[simp] theorem sampleAna_chips (a : Reading) (s : State) : (s.sampleAna a).chips = s.chips := by
  simp [sampleAna]
@[simp] theorem sampleAna_btn (a : Reading) (s : State) : (s.sampleAna a).btn = s.btn := by
  simp [sampleAna]
@[simp] theorem sampleAna_adc (a : Reading) (s : State) : (s.sampleAna a).adc = s.adc := by
  simp [sampleAna]
@[simp] theorem sampleAna_events (a : Reading) (s : State) : (s.sampleAna a).events = s.events := by
  simp [sampleAna]
@[simp] theorem sampleAna_raw (a : Reading) (s : State) : (s.sampleAna a).raw = s.raw := by
  simp [sampleAna]
@[simp] theorem sampleAna_asamp (a : Reading) (s : State) : (s.sampleAna a).asamp = a := rfl

/-- The analog part sets LE[5] on a rise of at least ATH and touches no other flag (rule R101). -/
theorem getElem_sampleAna_le (a : Reading) (s : State) (m : Fin 6) : (s.sampleAna a).le[m] =
    (s.le[m] || (riseReached s.asamp s.ath a && decide (analogChannel = m))) :=
  getElem_latchWhen ..

/-! ### SAMPLE -/

/-- RAW is the snapshot of BTN (rule R102). -/
theorem sample_raw (s : State) : s.sample.raw = s.btn := by
  apply Vector.ext
  intro i hi
  simp only [sample, digitalChannels, List.foldl_cons, List.foldl_nil, sampleAna_raw, sampleDig_raw]
  have : i = 0 ∨ i = 1 ∨ i = 2 ∨ i = 3 ∨ i = 4 := by omega
  rcases this with rfl | rfl | rfl | rfl | rfl <;> simp

/-- SAMPLE writes RAW, ASAMP and LE and nothing else (rule R102). -/
theorem sample_frame (s : State) : s.sample = { s with raw := s.btn, asamp := s.adc, le := s.sample.le } := by
  have hr := sample_raw s
  ext1 <;> first | exact hr | simp [sample, digitalChannels]

/-- A digital event is the old one, or a press edge (rule R100). -/
theorem sample_le_digital (s : State) (k : Fin 5) :
    s.sample.le[digitalAsChannel k] = (s.le[digitalAsChannel k] || pressEdge s.raw[k] s.btn[k]) := by
  simp only [sample, digitalChannels, List.foldl_cons, List.foldl_nil, getElem_sampleAna_le,
    getElem_sampleDig_le, sampleDig_raw]
  fin_cases k <;> simp [digitalAsChannel, analogChannel, Fin.ext_iff]

/-- The analog event is the old one, or a rise of at least ATH (rule R101). -/
theorem sample_le_analog (s : State) :
    s.sample.le[analogChannel] = (s.le[analogChannel] || riseReached s.asamp s.ath s.adc) := by
  simp only [sample, digitalChannels, List.foldl_cons, List.foldl_nil, getElem_sampleAna_le,
    getElem_sampleDig_le, sampleDig_asamp, sampleDig_ath]
  simp [digitalAsChannel, analogChannel, Fin.ext_iff]

end Sys2Proof.Machine.State
end

