-- ==== Sys2Proof/Laws/Tick.lean ====
section
/-! SUPPORT. What one TICK does, field by field (rules R115, R119), said once. -/

namespace Sys2Proof.Machine.State

/-! ### ADVROW, field by field -/

@[simp] theorem advRow_pb (c : Config) (s : State) : (s.advRow c).pb = s.pb := by
  rw [advRow_frame]
@[simp] theorem advRow_cf (c : Config) (s : State) : (s.advRow c).cf = s.cf := by
  rw [advRow_frame]
@[simp] theorem advRow_ari (c : Config) (s : State) : (s.advRow c).ari = s.ari + 1 := by
  rw [advRow_frame]
@[simp] theorem advRow_arm (c : Config) (s : State) : (s.advRow c).arm = ror8 s.arm := by
  rw [advRow_frame]
@[simp] theorem advRow_tsra (c : Config) (s : State) : (s.advRow c).tsra = s.tsra := by
  rw [advRow_frame]
@[simp] theorem advRow_rp (c : Config) (s : State) : (s.advRow c).rp = s.rp := by
  rw [advRow_frame]
@[simp] theorem advRow_rpp (c : Config) (s : State) : (s.advRow c).rpp = s.rpp := by
  rw [advRow_frame]
@[simp] theorem advRow_bzt (c : Config) (s : State) : (s.advRow c).bzt = s.bzt := by
  rw [advRow_frame]
@[simp] theorem advRow_raw (c : Config) (s : State) : (s.advRow c).raw = s.raw := by
  rw [advRow_frame]
@[simp] theorem advRow_asamp (c : Config) (s : State) : (s.advRow c).asamp = s.asamp := by
  rw [advRow_frame]
@[simp] theorem advRow_le (c : Config) (s : State) : (s.advRow c).le = s.le := by
  rw [advRow_frame]
@[simp] theorem advRow_ath (c : Config) (s : State) : (s.advRow c).ath = s.ath := by
  rw [advRow_frame]
@[simp] theorem advRow_pinTrace (c : Config) (s : State) : (s.advRow c).pinTrace = s.pinTrace ++ (colFrame c (s.memRead (rowOf s.ari)) ++ rowFrame s.arm) := by
  rw [advRow_frame]
@[simp] theorem advRow_callLog (c : Config) (s : State) : (s.advRow c).callLog = s.callLog ++ [.col (s.memRead (rowOf s.ari)), .row s.arm] := by
  rw [advRow_frame]
@[simp] theorem advRow_resp (c : Config) (s : State) : (s.advRow c).resp = s.resp := by
  rw [advRow_frame]
@[simp] theorem advRow_responses (c : Config) (s : State) : (s.advRow c).responses = s.responses := by
  rw [advRow_frame]
@[simp] theorem advRow_btn (c : Config) (s : State) : (s.advRow c).btn = s.btn := by
  rw [advRow_frame]
@[simp] theorem advRow_adc (c : Config) (s : State) : (s.advRow c).adc = s.adc := by
  rw [advRow_frame]
@[simp] theorem advRow_events (c : Config) (s : State) : (s.advRow c).events = s.events := by
  rw [advRow_frame]

/-! ### SAMPLE, field by field -/

@[simp] theorem sample_pb (s : State) : s.sample.pb = s.pb := by
  rw [sample_frame]
@[simp] theorem sample_cf (s : State) : s.sample.cf = s.cf := by
  rw [sample_frame]
@[simp] theorem sample_ari (s : State) : s.sample.ari = s.ari := by
  rw [sample_frame]
@[simp] theorem sample_arm (s : State) : s.sample.arm = s.arm := by
  rw [sample_frame]
@[simp] theorem sample_tsra (s : State) : s.sample.tsra = s.tsra := by
  rw [sample_frame]
@[simp] theorem sample_rp (s : State) : s.sample.rp = s.rp := by
  rw [sample_frame]
@[simp] theorem sample_rpp (s : State) : s.sample.rpp = s.rpp := by
  rw [sample_frame]
@[simp] theorem sample_bzt (s : State) : s.sample.bzt = s.bzt := by
  rw [sample_frame]
@[simp] theorem sample_raw_eq (s : State) : s.sample.raw = s.btn := by
  rw [sample_frame]
@[simp] theorem sample_asamp (s : State) : s.sample.asamp = s.adc := by
  rw [sample_frame]
@[simp] theorem sample_ath (s : State) : s.sample.ath = s.ath := by
  rw [sample_frame]
@[simp] theorem sample_pins (s : State) : s.sample.pins = s.pins := by
  rw [sample_frame]
@[simp] theorem sample_pinTrace (s : State) : s.sample.pinTrace = s.pinTrace := by
  rw [sample_frame]
@[simp] theorem sample_callLog (s : State) : s.sample.callLog = s.callLog := by
  rw [sample_frame]
@[simp] theorem sample_resp (s : State) : s.sample.resp = s.resp := by
  rw [sample_frame]
@[simp] theorem sample_responses (s : State) : s.sample.responses = s.responses := by
  rw [sample_frame]
@[simp] theorem sample_chips (s : State) : s.sample.chips = s.chips := by
  rw [sample_frame]
@[simp] theorem sample_btn (s : State) : s.sample.btn = s.btn := by
  rw [sample_frame]
@[simp] theorem sample_adc (s : State) : s.sample.adc = s.adc := by
  rw [sample_frame]
@[simp] theorem sample_events (s : State) : s.sample.events = s.events := by
  rw [sample_frame]

/-! ### The two checks and the TICK -/

/-- The row-advance check of the next TICK will match (rule R115, step 3). -/
def advances (s : State) : Bool := decide (s.tsra + 1 = s.rp)

/-- TSRA after the row-advance check of the next TICK. -/
def countNext (s : State) : Period := if s.advances then 0 else s.tsra + 1

/-- RP after the row-advance check of the next TICK. -/
def periodNext (s : State) : Period := if s.advances then s.rpp else s.rp

/-- The sample check of the next TICK will match (rule R115, step 4). -/
def samples (s : State) : Bool := decide (s.countNext = s.periodNext / 2)

/-- The state a TICK reaches before its checks: both counters counted. -/
def counted (s : State) : State := (s.setBzt (s.bzt + 1)).setTsra (s.tsra + 1)

/-- The state a TICK hands to its sample check. -/
def advanced (c : Config) (s : State) : State := s.counted.rowAdvanceCheck c

theorem tick_def (c : Config) (s : State) : s.tick c = (s.advanced c).sampleCheck := rfl

@[simp] theorem counted_pb (s : State) : s.counted.pb = s.pb := rfl
@[simp] theorem counted_cf (s : State) : s.counted.cf = s.cf := rfl
@[simp] theorem counted_ari (s : State) : s.counted.ari = s.ari := rfl
@[simp] theorem counted_arm (s : State) : s.counted.arm = s.arm := rfl
@[simp] theorem counted_tsra (s : State) : s.counted.tsra = s.tsra + 1 := rfl
@[simp] theorem counted_rp (s : State) : s.counted.rp = s.rp := rfl
@[simp] theorem counted_rpp (s : State) : s.counted.rpp = s.rpp := rfl
@[simp] theorem counted_bzt (s : State) : s.counted.bzt = s.bzt + 1 := rfl
@[simp] theorem counted_raw (s : State) : s.counted.raw = s.raw := rfl
@[simp] theorem counted_asamp (s : State) : s.counted.asamp = s.asamp := rfl
@[simp] theorem counted_le (s : State) : s.counted.le = s.le := rfl
@[simp] theorem counted_ath (s : State) : s.counted.ath = s.ath := rfl
@[simp] theorem counted_pins (s : State) : s.counted.pins = s.pins := rfl
@[simp] theorem counted_pinTrace (s : State) : s.counted.pinTrace = s.pinTrace := rfl
@[simp] theorem counted_callLog (s : State) : s.counted.callLog = s.callLog := rfl
@[simp] theorem counted_resp (s : State) : s.counted.resp = s.resp := rfl
@[simp] theorem counted_responses (s : State) : s.counted.responses = s.responses := rfl
@[simp] theorem counted_chips (s : State) : s.counted.chips = s.chips := rfl
@[simp] theorem counted_btn (s : State) : s.counted.btn = s.btn := rfl
@[simp] theorem counted_adc (s : State) : s.counted.adc = s.adc := rfl
@[simp] theorem counted_events (s : State) : s.counted.events = s.events := rfl
@[simp] theorem counted_memRead (s : State) (k : Fin 8) : s.counted.memRead k = s.memRead k := rfl

theorem advanced_eq (c : Config) (s : State) : s.advanced c =
    if s.advances then ((s.counted.advRow c).setTsra 0).setRp s.rpp else s.counted := by
  simp [advanced, rowAdvanceCheck, advances]


@[simp] theorem advanced_pb (c : Config) (s : State) : (s.advanced c).pb = s.pb := by
  by_cases h : s.advances <;> simp [advanced_eq, h]
@[simp] theorem advanced_cf (c : Config) (s : State) : (s.advanced c).cf = s.cf := by
  by_cases h : s.advances <;> simp [advanced_eq, h]
@[simp] theorem advanced_ari (c : Config) (s : State) : (s.advanced c).ari = if s.advances then s.ari + 1 else s.ari := by
  by_cases h : s.advances <;> simp [advanced_eq, h]
@[simp] theorem advanced_arm (c : Config) (s : State) : (s.advanced c).arm = if s.advances then ror8 s.arm else s.arm := by
  by_cases h : s.advances <;> simp [advanced_eq, h]
@[simp] theorem advanced_tsra (c : Config) (s : State) : (s.advanced c).tsra = s.countNext := by
  by_cases h : s.advances <;> simp [advanced_eq, countNext, h]
@[simp] theorem advanced_rp (c : Config) (s : State) : (s.advanced c).rp = s.periodNext := by
  by_cases h : s.advances <;> simp [advanced_eq, periodNext, h]
@[simp] theorem advanced_rpp (c : Config) (s : State) : (s.advanced c).rpp = s.rpp := by
  by_cases h : s.advances <;> simp [advanced_eq, h]
@[simp] theorem advanced_bzt (c : Config) (s : State) : (s.advanced c).bzt = s.bzt + 1 := by
  by_cases h : s.advances <;> simp [advanced_eq, h]
@[simp] theorem advanced_raw (c : Config) (s : State) : (s.advanced c).raw = s.raw := by
  by_cases h : s.advances <;> simp [advanced_eq, h]
@[simp] theorem advanced_asamp (c : Config) (s : State) : (s.advanced c).asamp = s.asamp := by
  by_cases h : s.advances <;> simp [advanced_eq, h]
@[simp] theorem advanced_le (c : Config) (s : State) : (s.advanced c).le = s.le := by
  by_cases h : s.advances <;> simp [advanced_eq, h]
@[simp] theorem advanced_ath (c : Config) (s : State) : (s.advanced c).ath = s.ath := by
  by_cases h : s.advances <;> simp [advanced_eq, h]
@[simp] theorem advanced_pinTrace (c : Config) (s : State) : (s.advanced c).pinTrace = if s.advances then s.pinTrace ++ (colFrame c (s.memRead (rowOf s.ari)) ++ rowFrame s.arm) else s.pinTrace := by
  by_cases h : s.advances <;> simp [advanced_eq, h]
@[simp] theorem advanced_callLog (c : Config) (s : State) : (s.advanced c).callLog = if s.advances then s.callLog ++ [.col (s.memRead (rowOf s.ari)), .row s.arm] else s.callLog := by
  by_cases h : s.advances <;> simp [advanced_eq, h]
@[simp] theorem advanced_resp (c : Config) (s : State) : (s.advanced c).resp = s.resp := by
  by_cases h : s.advances <;> simp [advanced_eq, h]
@[simp] theorem advanced_responses (c : Config) (s : State) : (s.advanced c).responses = s.responses := by
  by_cases h : s.advances <;> simp [advanced_eq, h]
@[simp] theorem advanced_btn (c : Config) (s : State) : (s.advanced c).btn = s.btn := by
  by_cases h : s.advances <;> simp [advanced_eq, h]
@[simp] theorem advanced_adc (c : Config) (s : State) : (s.advanced c).adc = s.adc := by
  by_cases h : s.advances <;> simp [advanced_eq, h]
@[simp] theorem advanced_events (c : Config) (s : State) : (s.advanced c).events = s.events := by
  by_cases h : s.advances <;> simp [advanced_eq, h]

theorem sampleCheck_advanced (c : Config) (s : State) : (s.advanced c).sampleCheck =
    if s.samples then (s.advanced c).sample else s.advanced c := by
  simp [sampleCheck, samples]

/-- The pins after the row-advance check, when LATCH and CLK_ROW were low. -/
theorem advanced_pins (c : Config) (s : State) (hl : s.pins.latch = false) (hr : s.pins.clkRow = false) :
    (s.advanced c).pins =
      if s.advances then ⟨s.arm.getLsbD 7, true, false, false, !c.oeDisableLevel⟩ else s.pins := by
  have he := advRow_eq c s.counted (by simpa using hl) (by simpa using hr)
  by_cases h : s.advances <;> simp [advanced_eq, he, h]

/-- The chips after the row-advance check, when LATCH and CLK_ROW were low. -/
theorem advanced_chips (c : Config) (s : State) (hl : s.pins.latch = false) (hr : s.pins.clkRow = false) :
    (s.advanced c).chips = if s.advances then
      ⟨s.memRead (rowOf s.ari), s.memRead (rowOf s.ari), s.arm, s.arm⟩ else s.chips := by
  have he := advRow_eq c s.counted (by simpa using hl) (by simpa using hr)
  by_cases h : s.advances <;> simp [advanced_eq, he, h]

/-- A TICK that does not advance leaves the pins and the chips (rule R179). -/
theorem advanced_idle (c : Config) (s : State) (h : s.advances = false) : s.advanced c = s.counted := by
  simp [advanced_eq, h]

@[simp] theorem tick_pb (c : Config) (s : State) : (s.tick c).pb = s.pb := by
  by_cases h : s.samples <;> simp [tick_def, sampleCheck_advanced, h]
@[simp] theorem tick_cf (c : Config) (s : State) : (s.tick c).cf = s.cf := by
  by_cases h : s.samples <;> simp [tick_def, sampleCheck_advanced, h]
@[simp] theorem tick_ari (c : Config) (s : State) : (s.tick c).ari = if s.advances then s.ari + 1 else s.ari := by
  by_cases h : s.samples <;> simp [tick_def, sampleCheck_advanced, h]
@[simp] theorem tick_arm (c : Config) (s : State) : (s.tick c).arm = if s.advances then ror8 s.arm else s.arm := by
  by_cases h : s.samples <;> simp [tick_def, sampleCheck_advanced, h]
@[simp] theorem tick_tsra (c : Config) (s : State) : (s.tick c).tsra = s.countNext := by
  by_cases h : s.samples <;> simp [tick_def, sampleCheck_advanced, h]
@[simp] theorem tick_rp (c : Config) (s : State) : (s.tick c).rp = s.periodNext := by
  by_cases h : s.samples <;> simp [tick_def, sampleCheck_advanced, h]
@[simp] theorem tick_rpp (c : Config) (s : State) : (s.tick c).rpp = s.rpp := by
  by_cases h : s.samples <;> simp [tick_def, sampleCheck_advanced, h]
@[simp] theorem tick_bzt (c : Config) (s : State) : (s.tick c).bzt = s.bzt + 1 := by
  by_cases h : s.samples <;> simp [tick_def, sampleCheck_advanced, h]
@[simp] theorem tick_raw (c : Config) (s : State) : (s.tick c).raw = if s.samples then s.btn else s.raw := by
  by_cases h : s.samples <;> simp [tick_def, sampleCheck_advanced, h]
@[simp] theorem tick_asamp (c : Config) (s : State) : (s.tick c).asamp = if s.samples then s.adc else s.asamp := by
  by_cases h : s.samples <;> simp [tick_def, sampleCheck_advanced, h]
@[simp] theorem tick_ath (c : Config) (s : State) : (s.tick c).ath = s.ath := by
  by_cases h : s.samples <;> simp [tick_def, sampleCheck_advanced, h]
@[simp] theorem tick_pins (c : Config) (s : State) : (s.tick c).pins = (s.advanced c).pins := by
  by_cases h : s.samples <;> simp [tick_def, sampleCheck_advanced, h]
@[simp] theorem tick_pinTrace (c : Config) (s : State) : (s.tick c).pinTrace = if s.advances then s.pinTrace ++ (colFrame c (s.memRead (rowOf s.ari)) ++ rowFrame s.arm) else s.pinTrace := by
  by_cases h : s.samples <;> simp [tick_def, sampleCheck_advanced, h]
@[simp] theorem tick_callLog (c : Config) (s : State) : (s.tick c).callLog = if s.advances then s.callLog ++ [.col (s.memRead (rowOf s.ari)), .row s.arm] else s.callLog := by
  by_cases h : s.samples <;> simp [tick_def, sampleCheck_advanced, h]
@[simp] theorem tick_resp (c : Config) (s : State) : (s.tick c).resp = s.resp := by
  by_cases h : s.samples <;> simp [tick_def, sampleCheck_advanced, h]
@[simp] theorem tick_responses (c : Config) (s : State) : (s.tick c).responses = s.responses := by
  by_cases h : s.samples <;> simp [tick_def, sampleCheck_advanced, h]
@[simp] theorem tick_chips (c : Config) (s : State) : (s.tick c).chips = (s.advanced c).chips := by
  by_cases h : s.samples <;> simp [tick_def, sampleCheck_advanced, h]
@[simp] theorem tick_btn (c : Config) (s : State) : (s.tick c).btn = s.btn := by
  by_cases h : s.samples <;> simp [tick_def, sampleCheck_advanced, h]
@[simp] theorem tick_adc (c : Config) (s : State) : (s.tick c).adc = s.adc := by
  by_cases h : s.samples <;> simp [tick_def, sampleCheck_advanced, h]
@[simp] theorem tick_events (c : Config) (s : State) : (s.tick c).events = s.events := by
  by_cases h : s.samples <;> simp [tick_def, sampleCheck_advanced, h]

/-- The digital events after a TICK (rules R100, R115). -/
theorem tick_le_digital (c : Config) (s : State) (k : Fin 5) : (s.tick c).le[digitalAsChannel k] =
    (s.le[digitalAsChannel k] || (s.samples && pressEdge s.raw[k] s.btn[k])) := by
  by_cases h : s.samples
  · have := sample_le_digital (s.advanced c) k
    simp_all [tick_def, sampleCheck_advanced]
  · simp [tick_def, sampleCheck_advanced, h]

/-- The analog event after a TICK (rules R101, R115). -/
theorem tick_le_analog (c : Config) (s : State) : (s.tick c).le[analogChannel] =
    (s.le[analogChannel] || (s.samples && riseReached s.asamp s.ath s.adc)) := by
  by_cases h : s.samples
  · have := sample_le_analog (s.advanced c)
    simp_all [tick_def, sampleCheck_advanced]
  · simp [tick_def, sampleCheck_advanced, h]

/-- A channel is digital or the analog one. -/
theorem channel_cases (k : Fin 6) : (∃ d : Fin 5, k = digitalAsChannel d) ∨ k = analogChannel := by
  revert k; decide

/-! ### The pin writes of a TICK, whole or abandoned -/

theorem tickWrites_eq (c : Config) (s : State) : s.tickWrites c =
    if s.advances then colFrame c (s.memRead (rowOf s.ari)) ++ rowFrame s.arm else [] := by
  simp [tickWrites, advances]

/-- A TICK's pin writes are what it adds to the trace. -/
theorem tick_pinTrace_writes (c : Config) (s : State) : (s.tick c).pinTrace = s.pinTrace ++ s.tickWrites c := by
  by_cases h : s.advances <;> simp [tickWrites_eq, h]

/-- A TICK moves the pins and the chips by its pin writes alone. -/
theorem tick_wire (c : Config) (s : State) : (s.tick c).pins = (s.pinWrites (s.tickWrites c)).pins ∧
    (s.tick c).chips = (s.pinWrites (s.tickWrites c)).chips := by
  have hw := advRow_wire_writes c s
  have hc := advRow_wire c (s := s) (t := s.counted) rfl rfl rfl rfl
  by_cases h : s.advances <;> simp [tickWrites_eq, advanced_eq, h, hw, hc]

/-- A reset over an abandoned step differs from one between steps in the chips alone (rule R170). -/
theorem resetBlock_abandon (c : Config) (a : Abandoned) (s : State) :
    (s.abandon c a).resetBlock c = { s.resetBlock c with chips := (s.abandon c a).chips } := by
  cases a with
  | tick n =>
    simp only [abandon]
    rw [pinWrites_frame]
    rfl
  | nothing | command => rfl

/-! ### Several TICKs -/

theorem ticks_succ (c : Config) (n : Nat) (s : State) : s.ticks c (n + 1) = (s.ticks c n).tick c := by
  induction n generalizing s with
  | zero => rfl
  | succ n ih => exact ih (s.tick c)

theorem ticks_add (c : Config) (m n : Nat) (s : State) : s.ticks c (m + n) = (s.ticks c m).ticks c n := by
  induction n with
  | zero => rfl
  | succ n ih => rw [← Nat.add_assoc, ticks_succ, ih, ticks_succ]

end Sys2Proof.Machine.State
end

