-- ==== Sys2Proof/Laws/Exec.lean ====
section
/-! SUPPORT. What a host command can do, and what a step can do, said once each: every claim about all commands
or all steps goes through these. -/

namespace Sys2Proof.Machine

/-! ### Operand forms -/

/-- An index field names a position or is 8 or more (rule R46). -/
theorem pixelIndex_cases (x : IndexField) :
    (∃ i : Fin 8, pixelIndex x = some i ∧ i.val = x.toNat) ∨ (pixelIndex x = none ∧ 8 ≤ x.toNat) := by
  unfold pixelIndex
  split
  · exact .inl ⟨_, rfl, rfl⟩
  · exact .inr ⟨rfl, by omega⟩

/-- A channel field names a channel or is 6 or more (rule R105). -/
theorem channel_field_cases (ch : IndexField) :
    (∃ k : Fin 6, channel ch = some k ∧ k.val = ch.toNat) ∨ (channel ch = none ∧ 6 ≤ ch.toNat) := by
  unfold channel
  split
  · exact .inl ⟨_, rfl, rfl⟩
  · exact .inr ⟨rfl, by omega⟩

/-- A channel field names a digital channel or is 5 or more (rule R107). -/
theorem digitalChannel_cases (ch : IndexField) :
    (∃ k : Fin 5, digitalChannel ch = some k ∧ k.val = ch.toNat) ∨ (digitalChannel ch = none ∧ 5 ≤ ch.toNat) := by
  unfold digitalChannel
  split
  · exact .inl ⟨_, rfl, rfl⟩
  · exact .inr ⟨rfl, by omega⟩

/-- The stored period is never 0 (rule R121). -/
theorem clampPeriod_ne_zero (p : Period) : clampPeriod p ≠ 0 := by
  unfold clampPeriod
  split
  · decide
  · assumption

/-! ### One command -/

theorem execCommit_eq (s : State) : execCommit s = .next s.commitRows.noResponse := rfl

/-- What a host command can do: it always ends, and it writes PB, or CF, or one event flag, or ATH, or RPP, or
no register at all; every register that no host command writes is as before (rule R34). -/
theorem exec_cases (i : Instr) (s : State) :
    ∃ g m l t p r rs, exec i s = .next
      { s with pb := g, cf := m, le := l, ath := t, rpp := p, resp := r, responses := rs } ∧
      ((g = s.pb ∨ (∃ x y v, i = .setpx x y v) ∨ i = .clrall ∨ i = .fillall ∨ ∃ k b, i = .ldrow k b) ∧
        (m = s.cf ∨ i = .commit ∧ m = s.commitRows.cf) ∧
        (l = s.le ∨ ∃ ch, ∃ k : Fin 6, i = .waspr ch ∧ channel ch = some k ∧ l = s.le.set k false) ∧
        (t = s.ath ∨ i = .setthr t) ∧
        (p = s.rpp ∨ ∃ q, i = .setrp q ∧ p = clampPeriod q)) := by
  cases i with
  | setpx x y v =>
    simp only [exec, execSetpx]
    rcases pixelIndex_cases x with ⟨i, hi, -⟩ | ⟨hi, -⟩ <;>
      rcases pixelIndex_cases y with ⟨k, hk, -⟩ | ⟨hk, -⟩ <;> simp only [hi, hk] <;>
      exact ⟨_, _, _, _, _, _, _, rfl, by simp, .inl rfl, .inl rfl, .inl rfl, .inl rfl⟩
  | commit => exact ⟨_, _, _, _, _, _, _, rfl, .inl rfl, .inr ⟨rfl, rfl⟩, .inl rfl, .inl rfl, .inl rfl⟩
  | clrall => exact ⟨_, _, _, _, _, _, _, rfl, by simp, .inl rfl, .inl rfl, .inl rfl, .inl rfl⟩
  | fillall => exact ⟨_, _, _, _, _, _, _, rfl, by simp, .inl rfl, .inl rfl, .inl rfl, .inl rfl⟩
  | ldrow k b =>
    simp only [exec, execLdrow]
    rcases pixelIndex_cases k with ⟨k', hk, -⟩ | ⟨hk, -⟩ <;> simp only [hk]
    · rw [State.setPixelRow_frame]
      exact ⟨_, _, _, _, _, _, _, rfl, by simp, .inl rfl, .inl rfl, .inl rfl, .inl rfl⟩
    · exact ⟨_, _, _, _, _, _, _, rfl, by simp, .inl rfl, .inl rfl, .inl rfl, .inl rfl⟩
  | waspr ch =>
    simp only [exec, execWaspr]
    rcases channel_field_cases ch with ⟨k, hk, -⟩ | ⟨hk, -⟩ <;> simp only [hk]
    · exact ⟨_, _, _, _, _, _, _, rfl, .inl rfl, .inl rfl, .inr ⟨ch, k, rfl, hk, rfl⟩, .inl rfl, .inl rfl⟩
    · exact ⟨_, _, _, _, _, _, _, rfl, by simp, .inl rfl, .inl rfl, .inl rfl, .inl rfl⟩
  | isheld ch =>
    simp only [exec, execIsheld]
    rcases digitalChannel_cases ch with ⟨k, hk, -⟩ | ⟨hk, -⟩ <;> simp only [hk] <;>
      exact ⟨_, _, _, _, _, _, _, rfl, by simp, .inl rfl, .inl rfl, .inl rfl, .inl rfl⟩
  | alevel => exact ⟨_, _, _, _, _, _, _, rfl, by simp, .inl rfl, .inl rfl, .inl rfl, .inl rfl⟩
  | setthr t => exact ⟨_, _, _, _, _, _, _, rfl, .inl rfl, .inl rfl, .inl rfl, .inr rfl, .inl rfl⟩
  | setrp p => exact ⟨_, _, _, _, _, _, _, rfl, .inl rfl, .inl rfl, .inl rfl, .inl rfl, .inr ⟨p, rfl, rfl⟩⟩

/-- A command leaves the events that wait (rule R34). -/
theorem exec_events {i : Instr} {s t : State} (h : exec i s = .next t) : t.events = s.events := by
  obtain ⟨_, _, _, _, _, _, _, hx, -⟩ := exec_cases i s
  rw [hx] at h
  cases h
  rfl

/-! ### One step -/

/-- What a step can do: nothing when no event waits; else what the first event does, and a step that is not a
next state is a reserved word (rules R2, R4, R72). -/
theorem stepWith_cases (c : Config) (s : State) :
    (s.events = [] ∧ stepWith c s = .next s) ∨
    (∃ es, s.events = .tick :: es ∧ stepWith c s = .next ((s.setEvents es).tick c)) ∨
    (∃ w i es, s.events = .cmd w :: es ∧ decode w = .ok i ∧ stepWith c s = exec i (s.setEvents es)) ∨
    (∃ w why es, s.events = .cmd w :: es ∧ decode w = .error why ∧
      stepWith c s = .refused (.reservedWord w why)) ∨
    (∃ w es, s.events = .tickAndCmd w :: es ∧
      stepWith c s = .next (((s.setEvents es).tick c).setEvents (.cmd w :: es))) ∨
    (∃ k v es, s.events = .btn k v :: es ∧ stepWith c s = .next ((s.setEvents es).setBtn k v)) ∨
    (∃ a es, s.events = .adc a :: es ∧ stepWith c s = .next ((s.setEvents es).setAdc a)) ∨
    (∃ a es, s.events = .reset a :: es ∧
      stepWith c s = .next (((s.setEvents es).abandon c a).resetBlock c)) := by
  unfold stepWith
  split
  · next h => exact .inl ⟨h, rfl⟩
  · next e es h =>
    cases e with
    | tick => exact .inr (.inl ⟨es, h, rfl⟩)
    | cmd w =>
      cases hd : decode w with
      | ok i => exact .inr (.inr (.inl ⟨w, i, es, h, hd, by simp [perform, runWord, hd]⟩))
      | error why => exact .inr (.inr (.inr (.inl ⟨w, why, es, h, hd, by simp [perform, runWord, hd]⟩)))
    | tickAndCmd w => exact .inr (.inr (.inr (.inr (.inl ⟨w, es, h, rfl⟩))))
    | btn k v => exact .inr (.inr (.inr (.inr (.inr (.inl ⟨k, v, es, h, rfl⟩)))))
    | adc a => exact .inr (.inr (.inr (.inr (.inr (.inr (.inl ⟨a, es, h, rfl⟩))))))
    | reset a => exact .inr (.inr (.inr (.inr (.inr (.inr (.inr ⟨a, es, h, rfl⟩))))))

/-! ### Several steps -/

/-- What every step keeps, a run keeps. -/
theorem runWith_keeps (c : Config) (P : State → Prop) (hP : ∀ s t, P s → stepWith c s = .next t → P t) (n : Nat)
    {s t : State} (hs : P s) (h : runWith c n s = .next t) : P t := by
  induction n generalizing s with
  | zero => cases h; exact hs
  | succ n ih =>
    simp only [runWith] at h
    cases hx : stepWith c s with
    | next u => exact ih (hP s u hs hx) (by simpa [hx] using h)
    | fault _ => simp [hx] at h
    | refused _ => simp [hx] at h

/-- What every step keeps that does not latch channel `k`, a quiet run of the channel keeps. -/
theorem quietRun_keeps (c : Config) (k : Fin 6) (P : State → Prop)
    (hP : ∀ s t, P s → ¬LatchesNext c k s → stepWith c s = .next t → P t) (n : Nat) {s t : State} (hs : P s)
    (h : QuietRun c k n s t) : P t := by
  induction n generalizing s with
  | zero => cases h; exact hs
  | succ n ih => obtain ⟨hq, u, hu, hr⟩ := h; exact ih (hP s u hs hq hu) hr

end Sys2Proof.Machine
end

