-- ==== Sys2Proof/Laws/PerInstr.lean ====
section
/-! SUPPORT. The per-instruction family EncodingRow: a command's word is in its own row of the opcode map of rule
R68. -/

namespace Sys2Proof.Laws.EncodingRow

/-- The map has a row of the command's mnemonic, and the command's word matches it. -/
def Statement (i : Instr) : Prop := ∃ r ∈ opcodeMap, r.mnemonic = i.mnemonic ∧ r.Matches (encode i)

/-- An immediate of 12 bits is masked out under its opcode. -/
theorem high_nibble (op : BitVec 4) (x : BitVec 12) : (op ++ x) &&& 0xF000 = op ++ 0#12 := by
  apply BitVec.eq_of_getLsbD_eq
  intro i hi
  have : (0xF000 : BitVec (4 + 12)) = 0xF#4 ++ 0#12 := by decide
  rw [this, BitVec.getLsbD_and, BitVec.getLsbD_append, BitVec.getLsbD_append, BitVec.getLsbD_append]
  by_cases h : i < 12
  · simp [h]
  · have h4 : i - 12 = 0 ∨ i - 12 = 1 ∨ i - 12 = 2 ∨ i - 12 = 3 := by omega
    rcases h4 with h4 | h4 | h4 | h4 <;> simp [h, h4]

theorem setpx (x y : IndexField) (v : Bit) : Statement (.setpx x y v) := by
  refine ⟨⟨"SETPX", 0xF00E, 0x1000⟩, by simp [opcodeMap], rfl, ?_⟩
  revert x y v
  decide +kernel

theorem commit : Statement .commit := ⟨⟨"COMMIT", 0xFFFF, 0x2000⟩, by simp [opcodeMap], rfl, rfl⟩

theorem clrall : Statement .clrall := ⟨⟨"CLRALL", 0xFFFF, 0x3000⟩, by simp [opcodeMap], rfl, rfl⟩

theorem fillall : Statement .fillall := ⟨⟨"FILLALL", 0xFFFF, 0x4000⟩, by simp [opcodeMap], rfl, rfl⟩

theorem ldrow (k : IndexField) (b : Byte) : Statement (.ldrow k b) := by
  refine ⟨⟨"LDROW", 0xF000, 0x5000⟩, by simp [opcodeMap], rfl, ?_⟩
  have : encode (.ldrow k b) = 0x5#4 ++ (k ++ b) := BitVec.append_assoc ..
  exact (congrArg (· &&& 0xF000#16) this).trans (high_nibble 0x5 (k ++ b))

theorem waspr (ch : IndexField) : Statement (.waspr ch) := by
  refine ⟨⟨"WASPR", 0xF0FF, 0x6000⟩, by simp [opcodeMap], rfl, ?_⟩
  revert ch
  decide

theorem isheld (ch : IndexField) : Statement (.isheld ch) := by
  refine ⟨⟨"ISHELD", 0xF0FF, 0x7000⟩, by simp [opcodeMap], rfl, ?_⟩
  revert ch
  decide

theorem alevel : Statement .alevel := ⟨⟨"ALEVEL", 0xFFFF, 0x8000⟩, by simp [opcodeMap], rfl, rfl⟩

theorem setthr (t : Threshold) : Statement (.setthr t) := by
  refine ⟨⟨"SETTHR", 0xF000, 0x9000⟩, by simp [opcodeMap], rfl, ?_⟩
  exact high_nibble 0x9 t

theorem setrp (p : Period) : Statement (.setrp p) := by
  refine ⟨⟨"SETRP", 0xF000, 0xA000⟩, by simp [opcodeMap], rfl, ?_⟩
  exact high_nibble 0xA p

end Sys2Proof.Laws.EncodingRow
end

