-- ==== Sys2Proof/Tests/Slice0.lean ====
section
/-! SUPPORT. The model's own tests. Expected values are those of spec/95_test_vectors.md, named by its labels
(V-FRM 2 is line 2 of its table V-FRM), or of the rule cited. The second half gives, for every obligation with
hypotheses, a state and operands that meet them. -/

namespace Sys2Proof.Tests

open Sys2Proof Sys2Proof.Machine

/-! ### WellFormed refuses a numeral that does not fit (rules R31, R63 to R67, R76) -/

theorem test_wf_accepts_every_largest_numeral : programWf
    [.setpx 15 15 1, .commit, .clrall, .fillall, .ldrow 15 255, .waspr 15, .isheld 15, .alevel, .setthr 4095,
     .setrp 4095, .ldfrm 255 255 255 255 255 255 255 255, .tick 400, .btn 4 1, .adc 1023, .reset,
     .word 65535] = true := by decide
theorem test_wf_refuses_setpx_x : (Line.setpx 16 0 0).wf = false := by decide
theorem test_wf_refuses_setpx_y : (Line.setpx 0 16 0).wf = false := by decide
theorem test_wf_refuses_setpx_v : (Line.setpx 0 0 2).wf = false := by decide
theorem test_wf_refuses_ldrow_k : (Line.ldrow 16 0).wf = false := by decide
theorem test_wf_refuses_ldrow_b : (Line.ldrow 0 256).wf = false := by decide
theorem test_wf_refuses_waspr_ch : (Line.waspr 16).wf = false := by decide
theorem test_wf_refuses_isheld_ch : (Line.isheld 16).wf = false := by decide
theorem test_wf_refuses_setthr_t : (Line.setthr 4096).wf = false := by decide
theorem test_wf_refuses_setrp_p : (Line.setrp 4096).wf = false := by decide
theorem test_wf_refuses_each_ldfrm_byte : [Line.ldfrm 256 0 0 0 0 0 0 0, .ldfrm 0 256 0 0 0 0 0 0,
    .ldfrm 0 0 256 0 0 0 0 0, .ldfrm 0 0 0 256 0 0 0 0, .ldfrm 0 0 0 0 256 0 0 0, .ldfrm 0 0 0 0 0 256 0 0,
    .ldfrm 0 0 0 0 0 0 256 0, .ldfrm 0 0 0 0 0 0 0 256].all (fun l => !l.wf) = true := by decide
theorem test_wf_refuses_btn_k : (Line.btn 5 0).wf = false := by decide
theorem test_wf_refuses_btn_v : (Line.btn 0 2).wf = false := by decide
theorem test_wf_refuses_adc : (Line.adc 1024).wf = false := by decide
theorem test_wf_refuses_word : (Line.word 65536).wf = false := by decide
theorem test_programWf_refuses_one_bad_line : programWf [.commit, .waspr 16, .commit] = false := by decide

/-! ### Decoding, the words written out field by field from the patterns of rule R68 -/

theorem test_decode_setpx : decodeTableWord 16 0b0001_0010_0101_0001 = some (.setpx 2 5 true) ∧
    decodeTableWord 16 0b0001_1111_0000_0000 = some (.setpx 15 0 false) := by decide
theorem test_decode_commit : decodeTableWord 16 0b0010_0000_0000_0000 = some .commit := by decide
theorem test_decode_clrall : decodeTableWord 16 0b0011_0000_0000_0000 = some .clrall := by decide
theorem test_decode_fillall : decodeTableWord 16 0b0100_0000_0000_0000 = some .fillall := by decide
theorem test_decode_ldrow : decodeTableWord 16 0b0101_0011_1010_0101 = some (.ldrow 3 0xA5) := by decide
theorem test_decode_waspr : decodeTableWord 16 0b0110_0101_0000_0000 = some (.waspr 5) := by decide
theorem test_decode_isheld : decodeTableWord 16 0b0111_0100_0000_0000 = some (.isheld 4) := by decide
theorem test_decode_alevel : decodeTableWord 16 0b1000_0000_0000_0000 = some .alevel := by decide
theorem test_decode_setthr : decodeTableWord 16 0b1001_0001_0010_1100 = some (.setthr 300) := by decide
theorem test_decode_setrp : decodeTableWord 16 0b1010_0000_0011_0010 = some (.setrp 50) := by decide

/-- Section 2.1's reserved words. -/
theorem test_decode_refuses_reserved : [0x1252, 0x1258, 0x2001, 0x3100, 0x4FFF, 0x6001, 0x65FF, 0x7080, 0x8001,
    0x8800, 0x0000, 0x0FFF, 0xB000, 0xC123, 0xD000, 0xE000, 0xFFFF].all
      (fun w => (decodeTableWord 16 w).isNone) = true := by decide
theorem test_decode_names_the_reason : decode 0xB000 = .error (.opcode 0xB) ∧
    decode 0x1252 = .error (.mustBeZero 0x1) := ⟨rfl, rfl⟩

/-- The encoder on section 2.1's words. -/
theorem test_encode : encode (.setpx 2 5 true) = 0x1251 ∧ encode .commit = 0x2000 ∧ encode (.ldrow 7 0xFF) = 0x57FF ∧
    encode (.isheld 15) = 0x7F00 ∧ encode (.setthr 4095) = 0x9FFF ∧ encode (.setrp 1) = 0xA001 := by decide

/-- Rule R75's written form. -/
theorem test_written : (Line.ldrow 3 165).written = "LDROW 3, 165" := by decide +kernel

/-! ### One step of every command -/

/-- The next state, if there is one. -/
def after : Result → Option State
  | .next t => some t
  | .fault _ | .refused _ => none

/-- One step of a state, if it has a next state. -/
def stepped (s : State) : Option State := after (step s)

/-- All eight frame bytes. -/
def frame (s : State) : List Byte := octet.map s.memRead

/-- The small states of the tests: reset, with a few registers set. -/
def withInputs (le : Vector Bit 6) (raw btn : Vector Bit 5) (asamp adc : Reading) : State :=
  { State.reset with le := le, raw := raw, btn := btn, asamp := asamp, adc := adc }

/-- V-FRM 1. -/
theorem test_setpx : (after (exec (.setpx 2 5 true) State.reset)).map
    (fun t => (t.pixel 2 5, t.pixel 5 2, frame t)) = some (true, false, [0, 0, 0, 0, 0, 0, 0, 0]) := by decide
/-- Rule R131: word 0x1801 leaves PB as it was. -/
theorem test_setpx_out_of_range : (after (exec (.setpx 8 0 true) State.reset)).map (·.pb) =
    some State.reset.pb := by decide
/-- V-FRM 4. -/
theorem test_commit : (after (exec .commit (((State.reset.setPixel 0 0 true).setPixel 7 0 true).setPixel 3 4 true))).map
    frame = some [0x81, 0, 0, 0, 0x08, 0, 0, 0] := by decide
/-- Rule R133's example, on a PB with one pixel lit. -/
theorem test_clrall : (after (execAll [.setpx 3 4 true, .clrall, .commit] State.reset)).map frame =
    some [0, 0, 0, 0, 0, 0, 0, 0] := by decide
/-- Rule R134's example. -/
theorem test_fillall : (after (execAll [.fillall, .commit] State.reset)).map frame =
    some [0xFF, 0xFF, 0xFF, 0xFF, 0xFF, 0xFF, 0xFF, 0xFF] := by decide
/-- Rule R135's example: bit i of the byte is position i. -/
theorem test_ldrow : (after (exec (.ldrow 3 0xA5) State.reset)).map (fun t => octet.map fun i => t.pixel i 3) =
    some [true, false, true, false, false, true, false, true] := by decide
/-- Word 0x5812: no-op. -/
theorem test_ldrow_out_of_range : (after (exec (.ldrow 8 0x12) State.reset)).map (·.pb) = some State.reset.pb := by
  decide
/-- V-CMD 3. -/
theorem test_waspr : (after (exec (.waspr 4) (State.reset.setLe 4 true))).map (fun t => (t.resp, t.le[4])) =
    some (some 0x0001, false) := by decide
/-- V-CMD 6. -/
theorem test_waspr_out_of_range : (after (exec (.waspr 6) { State.reset with le := Vector.replicate 6 true })).map
    (fun t => (t.resp, t.le)) = some (some 0x0000, Vector.replicate 6 true) := by decide
/-- V-CMD 8. -/
theorem test_isheld : (after (exec (.isheld 3) (State.reset.setBtn 3 false))).map
    (fun t => (t.resp, t.raw[3], t.le[3])) = some (some 0x0001, true, false) := by decide
/-- V-CMD 10, with every button pressed. -/
theorem test_isheld_analog : (after (exec (.isheld 5) { State.reset with btn := Vector.replicate 5 false })).map
    (·.resp) = some (some 0x0000) := by decide
/-- V-CMD 12. -/
theorem test_alevel : (after (exec .alevel { State.reset with adc := 500, asamp := 150 })).map
    (fun t => (t.resp, t.asamp)) = some (some 0x01F4, 150) := by decide
/-- V-CMD 15. -/
theorem test_setthr : (after (exec (.setthr 0) (State.reset.setLe 5 true))).map (fun t => (t.ath, t.le[5], t.resp)) =
    some (0, true, none) := by decide
/-- V-SETRP 1. -/
theorem test_setrp : (after (exec (.setrp 10) { State.reset with tsra := 30 })).map (fun t => (t.rp, t.rpp, t.tsra)) =
    some (50, 10, 30) := by decide
/-- V-SETRP 3. -/
theorem test_setrp_zero : (after (exec (.setrp 0) State.reset)).map (·.rpp) = some 1 := by decide

/-! ### The internal operations -/

/-- Rule R80's example, the DATA values of SCOL 0xA5 in time order. -/
theorem test_scol_data : ((colFrame Config.lmrs 0xA5).filter (fun w => w.pin = .data)).map (·.level) =
    [true, false, true, false, false, true, false, true] := by decide
/-- Rule R83's example. -/
theorem test_srow_data : ((rowFrame 0x80).filter (fun w => w.pin = .data)).map (·.level) =
    [false, false, false, false, false, false, false, true] := by decide
/-- V-TRACE, the column chip after each of the eight edges, from 0x00. -/
theorem test_trace_csr : [4, 7, 10, 13, 16, 19, 22, 25].map (fun n =>
    (State.reset.pinWrites ((colFrame Config.lmrs 0xA5).take n)).chips.csr) =
    [0x80, 0x40, 0xA0, 0x50, 0x28, 0x94, 0x4A, 0xA5] := by decide
/-- V-TRACE, its end. -/
theorem test_trace_end : let t := (State.reset.memWrite 0 0xA5).advRow Config.lmrs
    (t.pinTrace.length, t.pins, t.chips, t.callLog, t.ari, t.arm) =
      (55, ⟨true, true, false, false, false⟩, ⟨0xA5, 0xA5, 0x80, 0x80⟩, [.col 0xA5, .row 0x80], 1, 0x40) := by decide
/-- V-ADV 8: the wrap. -/
theorem test_advRow_wraps : let t := ({ State.reset with ari := 7, arm := 0x01 } : State).advRow Config.lmrs
    (t.ari, t.arm) = (0, 0x80) := by decide
/-- V-DIG, the one latching case, and the release. -/
theorem test_sampleDig : (State.reset.sampleDig 1 false).le[1] = true ∧
    ({ State.reset with raw := Vector.replicate 5 false }.sampleDig 1 true).le[1] = false := by decide
/-- V-ANA 7, 8, 14. -/
theorem test_riseReached : riseReached 723 300 1023 = true ∧ riseReached 724 300 1023 = false ∧
    riseReached 1023 4095 1023 = false := by decide
/-- Rule R102's example. -/
theorem test_sample :
    let t := (withInputs (Vector.replicate 6 false) (Vector.replicate 5 true) #v[true, false, true, true, true]
      100 150).sample
    (t.raw, t.le, t.asamp) =
      (#v[true, false, true, true, true], #v[false, true, false, false, false, false], 150) := by decide

/-- A TICK of V-TICK: the row advances, whether it samples, and TSRA, RP and BZT after it. BTN[0] is pressed. -/
def ticked (tsra rp rpp : Period) (bzt : BuzzCount) : Nat × Bit × Period × Period × BuzzCount :=
  let t := ({ State.reset with
    tsra := tsra, rp := rp, rpp := rpp, bzt := bzt, btn := Vector.replicate 5 false } : State).tick Config.lmrs
  (t.callLog.length / 2, t.le[0], t.tsra, t.rp, t.bzt)

/-- V-TICK 2, 3, 7. -/
theorem test_tick_checks : ticked 24 50 50 24 = (0, true, 25, 50, 25) ∧ ticked 49 50 50 49 = (1, false, 0, 50, 50) ∧
    ticked 0 1 50 7 = (1, false, 0, 50, 8) := by decide
/-- V-TICK 5, 14. -/
theorem test_tick_both_checks : ticked 49 50 1 49 = (1, true, 0, 1, 50) ∧ ticked 1 2 1 1 = (1, true, 0, 1, 2) := by
  decide
/-- V-TICK 15, 16, 17. -/
theorem test_tick_edges : ticked 2046 4095 4095 0 = (0, true, 2047, 4095, 1) ∧
    ticked 4094 4095 4095 0 = (1, false, 0, 4095, 1) ∧ ticked 10 50 50 0xFFFF = (0, false, 11, 50, 0) := by decide

/-! ### Steps of the queue -/

/-- The memory of reset has the canonical form, and a blank byte written is not listed. -/
theorem test_memory_canonical : Memory.wf State.reset.cf = true ∧
    (((State.reset.memWrite 3 0x12).memWrite 1 0x34).memWrite 3 0x00).cf = [(1, 0x34)] := by decide
/-- Rule R155: the TICK that arrives with a command goes first. -/
theorem test_tick_before_command : ((stepped (State.reset.setEvents [.tickAndCmd 0xA001])).bind stepped).map
    (fun t => (t.bzt, t.rpp, t.events)) = some (1, 1, []) := by decide
/-- V-TRACE's first TICK, cut by a reset after its first `n` pin writes: the column chip and what the reset left. -/
def cut (n : Nat) : Option (Byte × Byte × Pins × Period) :=
  (stepped (({ State.reset with tsra := 49, events := [.reset (.tick n)] } : State).memWrite 0 0xA5)).map
    fun t => (t.chips.csr, t.chips.colOut, t.pins, t.tsra)
/-- Rule R170: write 26 is the LATCH edge. -/
theorem test_reset_cuts_a_tick : cut 22 = some (0x4A, 0x00, ⟨false, false, false, false, true⟩, 0) ∧
    cut 26 = some (0xA5, 0xA5, ⟨false, false, false, false, true⟩, 0) := by decide
/-- Rule R72: word 0x1252. -/
theorem test_reserved_word : step (State.reset.withFetchWord 16 0x1252) =
    .refused (.reservedWord 0x1252 (.mustBeZero 0x1)) := rfl

/-! ### Witnesses: for each obligation with hypotheses, a state and operands that meet them all -/

/-- A state that meets the invariant: reset after `n` counted TICKs of a row period `p`, with more set later. -/
def inPeriod (n p q : Period) (es : List Event) : State :=
  { State.reset with tsra := n, rp := p, rpp := q, events := es }

/-- Such a state meets the invariant when the count is below a period and no period is 0. -/
theorem inPeriod_inv {n p q : Period} (es : List Event) (h : n < p) (hp : p ≠ 0) (hq : q ≠ 0) :
    (inPeriod n p q es).Inv :=
  ⟨(⟨7, by decide⟩ : oneHot 0x80), rfl, h, hp, hq, rfl, rfl, rfl⟩

theorem witness_DecodedWordIsTheCommandsWord : decode 0x1251 = .ok (.setpx 2 5 true) ∧
    decode 0xAFFF = .ok (.setrp 4095) := ⟨rfl, rfl⟩

theorem witness_DecoderAgreesWithTheOpcodeMap : ∃ r ∈ opcodeMap, r.mnemonic = "COMMIT" ∧ r.Matches 0x2000 := by decide

/-- One reserved word of each kind, waiting on the command port. -/
theorem witness_ReservedWordsAreRefusedAndIgnored :
    (State.reset.setEvents [.cmd 0xFFFF, .tick]).events = .cmd 0xFFFF :: [.tick] ∧
    IsReserved 0xFFFF ∧ IsReserved 0x2001 ∧ IsReserved 0x1252 ∧ IsReserved 0x1258 ∧ IsReserved 0x6001 ∧
    IsReserved 0x7080 := by
  refine ⟨rfl, ?_, ?_, ?_, ?_, ?_, ?_⟩ <;> unfold IsReserved <;> decide

theorem witness_StepRunsTheDecodedCommand :
    (State.reset.setEvents [.cmd 0x53A5]).events = [.cmd 0x53A5] ∧ decode 0x53A5 = .ok (.ldrow 3 0xA5) ∧
    (State.reset.setEvents [.cmd (encode .commit)]).events = [.cmd (encode .commit)] := ⟨rfl, rfl, rfl⟩

theorem witness_PlacedTableWordRunsNext : decodeTableWord 16 0x5FFF = some (.ldrow 15 0xFF) := rfl

theorem witness_StepPerformsTheNextEvent :
    (State.reset.setEvents [.tick]).events = [.tick] ∧
    (State.reset.setEvents [.tickAndCmd 0x2000]).events = [.tickAndCmd 0x2000] ∧
    (State.reset.setEvents [.btn 4 false]).events = [.btn 4 false] ∧
    (State.reset.setEvents [.adc 1023]).events = [.adc 1023] ∧ State.reset.events = [] := ⟨rfl, rfl, rfl, rfl, rfl⟩

theorem witness_ResetPutsEveryRegisterAtItsValue :
    (State.reset.setEvents [.reset .nothing]).events = [.reset .nothing] := rfl

/-- A reset between steps, one in a command, one at either end of a TICK that advances. -/
theorem witness_ResetAbandonsTheStepInProgress :
    (inPeriod 49 50 50 [.reset .nothing]).events = [.reset .nothing] ∧
    (inPeriod 49 50 50 [.reset (.command .commit)]).events = [.reset (.command .commit)] ∧
    (inPeriod 49 50 50 [.reset (.tick 0)]).events = [.reset (.tick 0)] ∧
    (inPeriod 49 50 50 [.reset (.tick 55)]).events = [.reset (.tick 55)] ∧
    ((inPeriod 49 50 50 [.reset (.tick 55)]).tickWrites Config.lmrs).length ≤ 55 ∧
    ∀ n, Abandoned.command .commit ≠ .tick n := ⟨rfl, rfl, rfl, rfl, by decide, by simp⟩

/-- The first row advance after reset enables the outputs. -/
theorem witness_ResetLeavesTheDisplayDark :
    (inPeriod 49 50 50 [.tick]).Inv ∧ (inPeriod 49 50 50 [.tick]).pins.oeN = Config.lmrs.oeDisableLevel ∧
    ∃ t, stepWith Config.lmrs (inPeriod 49 50 50 [.tick]) = .next t ∧ t.pins.oeN ≠ Config.lmrs.oeDisableLevel :=
  ⟨inPeriod_inv _ (by decide) (by decide) (by decide), rfl, _, rfl, by decide⟩

/-- The legal configurations: the spec's and one with the least row period. -/
theorem witness_ResetMeetsTheInvariant : Config.lmrs.wf ∧ ({ Config.lmrs with rpReset := 1 } : Config).wf := by decide

theorem witness_EveryStepKeepsTheInvariant : Config.lmrs.wf ∧ (inPeriod 0 1 1 [.tick]).Inv ∧
    ∃ t, step (inPeriod 0 1 1 [.tick]) = .next t :=
  ⟨by decide, inPeriod_inv _ (by decide) (by decide) (by decide), _, rfl⟩

theorem witness_PeriodsAreNeverZero : Config.lmrs.wf ∧ 1 ≤ (inPeriod 0 1 1 [.cmd 0xA000]).rp.toNat ∧
    1 ≤ (inPeriod 0 1 1 [.cmd 0xA000]).rpp.toNat ∧
    ∃ t, stepWith Config.lmrs (inPeriod 0 1 1 [.cmd 0xA000]) = .next t :=
  ⟨by decide, by decide, by decide, _, rfl⟩

/-- Every clause: a command that writes PB, CF, RPP, ATH and LE in turn; a TICK that neither advances nor samples,
with a flag set. -/
theorem witness_EachRegisterHasOneWritingContext :
    (∃ t, exec .fillall State.reset = .next t ∧ t.pb ≠ State.reset.pb) ∧
    (∃ t, exec .commit (State.reset.setAllPixels true) = .next t ∧
      Memory.read t.cf 7 ≠ Memory.read (State.reset.setAllPixels true).cf 7 ∧
      t.cf ≠ (State.reset.setAllPixels true).cf) ∧
    (∃ t, exec (.setrp 1) State.reset = .next t ∧ t.rpp ≠ State.reset.rpp) ∧
    (∃ t, exec (.setthr 0) State.reset = .next t ∧ t.ath ≠ State.reset.ath) ∧
    (∃ t, exec (.waspr 5) (State.reset.setLe 5 true) = .next t ∧
      t.le[(5 : Fin 6)] ≠ (State.reset.setLe 5 true).le[(5 : Fin 6)]) ∧
    ((inPeriod 0 50 50 []).setLe 0 true).Inv ∧
    ((inPeriod 0 50 50 []).setLe 0 true).tsra.toNat + 1 ≠ ((inPeriod 0 50 50 []).setLe 0 true).rp.toNat ∧
    (((inPeriod 0 50 50 []).setLe 0 true).tick Config.lmrs).tsra.toNat ≠
      (((inPeriod 0 50 50 []).setLe 0 true).tick Config.lmrs).rp.toNat / 2 ∧
    ((inPeriod 0 50 50 []).setLe 0 true).le[(0 : Fin 6)] = true :=
  ⟨⟨_, rfl, by decide⟩, ⟨_, rfl, by decide, by decide⟩, ⟨_, rfl, by decide⟩, ⟨_, rfl, by decide⟩,
    ⟨_, rfl, by decide⟩, ⟨⟨7, by decide⟩, rfl, by decide, by decide, by decide, rfl, rfl, rfl⟩, by decide, by decide,
    by decide⟩

/-- A press sampled in a TICK, an analog rise sampled in a TICK that comes with a command, and a WASPR of the last
channel. -/
theorem witness_LatchedEventsChangeInTwoWays :
    (∃ t, stepWith Config.lmrs ((inPeriod 24 50 50 [.tick]).setBtn 4 false) = .next t ∧
      ((inPeriod 24 50 50 [.tick]).setBtn 4 false).le[(4 : Fin 6)] = false ∧ t.le[(4 : Fin 6)] = true) ∧
    (∃ t, stepWith Config.lmrs ((inPeriod 24 50 50 [.tickAndCmd 0x6500]).setAdc 300) = .next t ∧
      ((inPeriod 24 50 50 [.tickAndCmd 0x6500]).setAdc 300).le[(5 : Fin 6)] = false ∧ t.le[(5 : Fin 6)] = true) ∧
    (∃ t, stepWith Config.lmrs ((inPeriod 0 50 50 [.cmd 0x6500]).setLe 5 true) = .next t ∧
      ((inPeriod 0 50 50 [.cmd 0x6500]).setLe 5 true).le[(5 : Fin 6)] = true ∧ t.le[(5 : Fin 6)] = false) ∧
    decode 0x6500 = .ok (.waspr 5) ∧ (∀ a es, [Event.tick] ≠ .reset a :: es) :=
  ⟨⟨_, rfl, by decide, by decide⟩, ⟨_, rfl, by decide, by decide⟩, ⟨_, rfl, by decide, by decide⟩, rfl, by simp⟩

/-- Two states with the same inputs and flags that differ elsewhere. -/
theorem witness_HostReadsThreeValuesOnly :
    ({ State.reset with raw := Vector.replicate 5 false, asamp := 7 } : State) ≠ State.reset ∧
    ({ State.reset with raw := Vector.replicate 5 false, asamp := 7 } : State).le = State.reset.le ∧
    (∃ t, exec .alevel { State.reset with raw := Vector.replicate 5 false, asamp := 7 } = .next t) ∧
    ∃ t, exec .alevel State.reset = .next t := ⟨by decide, rfl, ⟨_, rfl⟩, ⟨_, rfl⟩⟩

theorem witness_FrameStoreReadsWhatWasWritten : (6 : Fin 8) ≠ 7 ∧ Memory.wf State.reset.cf = true := by decide

/-- A COMMIT, then a SETTHR 0 word and a TICK, then the TICK that advances; a SETTHR, then a COMMIT word and a
TICK. -/
theorem witness_HostWritesAreSeenByTheNextTick :
    (∃ t u, exec .commit (inPeriod 48 50 50 [.cmd 0x9000, .tick]) = .next t ∧ runWith Config.lmrs 2 t = .next u ∧
      t.events = [.cmd 0x9000, .tick] ∧ u.tsra.toNat + 1 = u.rp.toNat) ∧ decode 0x9000 ≠ .ok .commit ∧
    (∃ t u, exec (.setthr 4095) (inPeriod 0 50 50 [.cmd 0x2000, .tick]) = .next t ∧
      runWith Config.lmrs 2 t = .next u ∧ t.events = [.cmd 0x2000, .tick]) ∧
    (∀ v, decode 0x2000 ≠ .ok (.setthr v)) ∧ ∀ a, Event.reset a ∉ [.cmd 0x2000, .tick] :=
  ⟨⟨_, _, rfl, rfl, rfl, rfl⟩, by rw [show decode 0x9000 = .ok (.setthr 0) from rfl]; simp,
    ⟨_, _, rfl, rfl, rfl⟩,
    by rw [show decode 0x2000 = .ok .commit from rfl]; simp, by simp⟩

theorem witness_ColumnTransferEdgeCount : State.reset.pins.latch = false := rfl
theorem witness_OutputsAreBlankedDuringAColumnTransfer : 1 ≤ 1 ∧ 1 < 28 ∧ 1 ≤ 27 ∧ 27 < 28 := by decide
theorem witness_RowTransferEdgeCount : State.reset.pins.clkRow = false := rfl

/-- Both directions of each clause, at a rising and at a falling write. -/
theorem witness_ColumnChipReceivesTheByte : State.reset.pins.clkCol = false ∧ State.reset.pins.latch = false ∧
    (PinWrite.mk .clkCol true).pin = .clkCol ∧ (PinWrite.mk .latch true).level = true ∧
    ¬((PinWrite.mk .clkCol false).pin = .clkCol ∧ State.reset.pins.clkCol = false ∧
      (PinWrite.mk .clkCol false).level = true) := by decide
theorem witness_RowChipReceivesTheByte : State.reset.pins.clkRow = false ∧ State.reset.pins.latch = false ∧
    (PinWrite.mk .clkRow true).pin = .clkRow ∧
    ¬((PinWrite.mk .clkRow false).pin = .clkRow ∧ State.reset.pins.clkRow = false ∧
      (PinWrite.mk .clkRow false).level = true) ∧
    State.reset.chips.colOut = State.reset.chips.csr ∧ State.reset.chips.rowOut = State.reset.chips.rsr := by decide

theorem witness_AdvrowSendsOneRowAndSteps : 0 < 7 ∧ 6 < 7 := by decide
theorem witness_AdvrowLightsExactlyItsRow : (inPeriod 49 50 50 []).Inv :=
  inPeriod_inv _ (by decide) (by decide) (by decide)

theorem witness_LitPixelsHoldUntilTheNextAdvrow :
    (∃ t, stepWith Config.lmrs (inPeriod 0 50 50 [.tick]) = .next t ∧
      t.callLog = (inPeriod 0 50 50 [.tick]).callLog) ∧
    ∀ a es, (inPeriod 0 50 50 [.tick]).events ≠ .reset a :: es := ⟨⟨_, rfl, by decide⟩, by simp [inPeriod]⟩

/-- The least period and the largest. -/
theorem witness_EightRowPeriodsSendTheFrameOnce : (inPeriod 0 1 1 []).Inv ∧ (inPeriod 0 4095 4095 []).Inv ∧
    (inPeriod 0 1 1 []).tsra = 0 ∧ (inPeriod 0 1 1 []).rpp = (inPeriod 0 1 1 []).rp :=
  ⟨inPeriod_inv _ (by decide) (by decide) (by decide), inPeriod_inv _ (by decide) (by decide) (by decide), rfl, rfl⟩

theorem witness_DigitalSampleLatchesThePressEdge : analogChannel ≠ digitalAsChannel 4 := by decide

/-- A fall, the least ATH that no reading reaches, and ATH 0 with an unchanged reading (V-ANA 6, 13, 10). -/
theorem witness_AnalogSampleLatchesTheRise : (100 : Reading).toNat < (500 : Reading).toNat ∧
    1023 < (1024 : Threshold).toNat ∧ (0 : Threshold) = 0 ∧ (0 : Reading).toNat ≤ (0 : Reading).toNat ∧
    (4 : Fin 6) ≠ analogChannel := by decide

theorem witness_WasprAnswersAndClears : (0 : IndexField).toNat = (0 : Fin 6).val ∧
    (5 : IndexField).toNat = (5 : Fin 6).val ∧ 6 ≤ (6 : IndexField).toNat ∧ 6 ≤ (15 : IndexField).toNat := by decide

/-- Between the two WASPRs of the analog channel: a TICK whose SAMPLE sees no rise of 300, and a change of the
reading. -/
theorem witness_SecondWasprAnswersZero : (5 : IndexField).toNat = (5 : Fin 6).val ∧
    (∃ t u v, exec (.waspr 5) ((inPeriod 24 50 50 [.tick, .adc 1023]).setLe 5 true) = .next t ∧
      QuietRun Config.lmrs 5 2 t u ∧ exec (.waspr 5) u = .next v) ∧
    ∃ t u v, exec (.waspr 5) (State.reset.setLe 5 true) = .next t ∧
      execAll [.alevel, .waspr 0] t = .next u ∧ exec (.waspr 5) u = .next v := by
  refine ⟨rfl, ⟨_, _, _, rfl, ⟨?_, _, rfl, ?_, _, rfl, rfl⟩, rfl⟩, _, _, _, rfl, rfl, rfl⟩
  · rintro ⟨-, -, ⟨d, hd, -⟩ | ⟨-, h⟩⟩
    · exact absurd hd (by revert d; decide)
    · exact absurd h (by decide)
  · rintro ⟨⟨es, w, h | h⟩, -⟩ <;> cases h

theorem witness_IsheldAnswersThePinNow : (0 : IndexField).toNat = (0 : Fin 5).val ∧
    (4 : IndexField).toNat = (4 : Fin 5).val ∧ 5 ≤ (5 : IndexField).toNat ∧ 5 ≤ (15 : IndexField).toNat := by decide

theorem witness_OnePressGivesOneEvent : State.reset.raw[(4 : Fin 5)] = true ∧
    State.reset.le[digitalAsChannel 4] = false := by decide

theorem witness_RiseOfThreeHundredLatches : State.reset.ath = 300 ∧ State.reset.asamp = 0 ∧
    State.reset.le[analogChannel] = false := by decide

/-- A TICK that advances, one that does not, one that samples, one that does not (V-TICK 3, 1, 2, 3). -/
theorem witness_TickCountsAdvancesAndSamples : (inPeriod 49 50 50 []).Inv ∧
    (inPeriod 49 50 50 []).tsra.toNat + 1 = (inPeriod 49 50 50 []).rp.toNat ∧ (inPeriod 24 50 50 []).Inv ∧
    (inPeriod 24 50 50 []).tsra.toNat + 1 ≠ (inPeriod 24 50 50 []).rp.toNat ∧
    ((inPeriod 24 50 50 []).tick Config.lmrs).tsra.toNat = ((inPeriod 24 50 50 []).tick Config.lmrs).rp.toNat / 2 ∧
    ((inPeriod 49 50 50 []).tick Config.lmrs).tsra.toNat ≠ ((inPeriod 49 50 50 []).tick Config.lmrs).rp.toNat / 2 :=
  ⟨inPeriod_inv _ (by decide) (by decide) (by decide), rfl, inPeriod_inv _ (by decide) (by decide) (by decide),
    by decide, by decide, by decide⟩

/-- The least period with a sample inside it: TICK 0 is before the sample and TICK 1 after it. -/
theorem witness_OneAdvrowAndOneSampleInARowPeriod : (inPeriod 0 2 50 []).Inv ∧ (inPeriod 0 2 50 []).tsra = 0 ∧
    2 ≤ (inPeriod 0 2 50 []).rp.toNat ∧ 0 < (inPeriod 0 2 50 []).rp.toNat / 2 ∧
    (inPeriod 0 2 50 []).rp.toNat / 2 ≤ 1 ∧ 1 < (inPeriod 0 2 50 []).rp.toNat :=
  ⟨inPeriod_inv _ (by decide) (by decide) (by decide), rfl, by decide, by decide, by decide, by decide⟩

theorem witness_PeriodOneAdvancesAndSamplesEveryTick : (inPeriod 0 1 1 []).Inv ∧ (inPeriod 0 1 1 []).rp = 1 ∧
    (inPeriod 0 1 1 []).rpp = 1 := ⟨inPeriod_inv _ (by decide) (by decide) (by decide), rfl, rfl⟩

theorem witness_BuzzerTicksCountEveryTick : ∃ t, exec (.waspr 15) State.reset = .next t := ⟨_, rfl⟩

/-- A SETRP 0 in the middle of a row period: 19 TICKs later it still runs, 20 later it has ended. -/
theorem witness_SetrpWaitsForTheRowAdvance : (inPeriod 30 50 50 []).Inv ∧
    (∃ t, exec (.setrp 0) (inPeriod 30 50 50 []) = .next t) ∧
    (inPeriod 30 50 50 []).tsra.toNat + 19 < (inPeriod 30 50 50 []).rp.toNat ∧
    (inPeriod 30 50 50 []).tsra.toNat + 20 = (inPeriod 30 50 50 []).rp.toNat :=
  ⟨inPeriod_inv _ (by decide) (by decide) (by decide), ⟨_, rfl⟩, by decide, by decide⟩

theorem witness_SetpxWritesOnePixel : 8 ≤ (8 : IndexField).toNat ∧ 8 ≤ (15 : IndexField).toNat ∧
    ((7 : Fin 8).val = (7 : IndexField).toNat ∧ (0 : Fin 8).val = (0 : IndexField).toNat) := by decide

theorem witness_CommitPacksThePixelBuffer : 8 ≤ 8 := by decide

theorem witness_CommitIsIdempotent : Memory.wf State.reset.cf = true ∧ ∃ t v, exec .commit State.reset = .next t ∧
    exec .commit { t with ath := 0 } = .next v := ⟨rfl, _, _, rfl, rfl⟩

theorem witness_LdrowWritesOneDisplayRow : 8 ≤ (8 : IndexField).toNat ∧ (7 : Fin 8).val = (7 : IndexField).toNat := by
  decide

/-- A COMMIT and a RESET that change CF, and each of the four commands that do not. -/
theorem witness_OnlyCommitWritesTheFrame :
    (∃ t, stepWith Config.lmrs ((State.reset.setAllPixels true).setEvents [.cmd 0x2000]) = .next t ∧
      t.cf ≠ ((State.reset.setAllPixels true).setEvents [.cmd 0x2000]).cf) ∧
    (∃ t, stepWith Config.lmrs ((State.reset.memWrite 0 1).setEvents [.reset .nothing]) = .next t ∧
      t.cf ≠ ((State.reset.memWrite 0 1).setEvents [.reset .nothing]).cf) ∧
    (∃ t, exec (.setpx 7 7 true) State.reset = .next t) ∧ (∃ t, exec (.ldrow 15 1) State.reset = .next t) ∧
    (∃ t, exec .clrall State.reset = .next t) ∧ ∃ t, exec .fillall State.reset = .next t :=
  ⟨⟨_, rfl, by decide⟩, ⟨_, rfl, by decide⟩, ⟨_, rfl⟩, ⟨_, rfl⟩, ⟨_, rfl⟩, ⟨_, rfl⟩⟩

/-- Four events, with TICKs before and beside a command. -/
theorem witness_TicksNeverChangeThePixelBuffer : ∃ t,
    runWith Config.lmrs 4 (State.reset.setEvents [.tick, .cmd 0x4000, .tickAndCmd 0x1000]) = .next t ∧
      t.events = [] := ⟨_, rfl, rfl⟩

/-- Two states that differ in PB, in a flag and in the inputs, and show the same. -/
theorem witness_InputsNeverReachTheDisplay :
    SameScan State.reset (((State.reset.setAllPixels true).setLe 0 true).setAdc 5) ∧
    ((State.reset.setAllPixels true).setLe 0 true).setAdc 5 ≠ State.reset :=
  ⟨⟨rfl, rfl, rfl, rfl, rfl, rfl, rfl, rfl, rfl, rfl⟩, by decide⟩

/-- The state after the first ADVROW from reset. -/
theorem witness_GhostWindowShowsThePreviousRow :
    ({ State.reset with ari := 1, arm := 0x40, chips := ⟨0, 0, 0x80, 0x80⟩ } : State).Inv ∧
    (0x80 : Byte) = maskOf ((1 : RowIndex) - 1) :=
  ⟨⟨⟨6, by decide⟩, by decide, by decide, by decide, by decide, rfl, rfl, rfl⟩, by decide⟩

end Sys2Proof.Tests
end

section
/-! # 10_state.md: the registers at reset, the periods, the latched events (O11, O15, O17) -/

namespace Sys2Proof.Machine

/-! ### Reset (rule R33) -/

/-- Two states agree in every register and in both logs: they differ at most in what rule R33's table does not fix,
the responses and what is outside the block. -/
def SameRegisters (s t : State) : Prop :=
  t = { s with
    resp := t.resp, responses := t.responses, chips := t.chips, btn := t.btn, adc := t.adc, events := t.events }

/-- A reset reaches the registers of power-on, whatever the block held (rules R33, R170). -/
theorem sameRegisters_reset_resetBlock (s : State) : SameRegisters State.reset (s.resetBlock Config.lmrs) := rfl

/-- A reset event is the step, and it resets what the step in progress has left. -/
theorem stepWith_reset (c : Config) {s : State} {a : Abandoned} {es : List Event} (h : s.events = .reset a :: es) :
    stepWith c s = .next (((s.setEvents es).abandon c a).resetBlock c) := by
  simp [stepWith, h, perform]

theorem reset_pixel (i k : Fin 8) : State.reset.pixel i k = false := by
  simp [State.pixel, State.reset]

theorem reset_raw (k : Fin 5) : State.reset.raw[k] = true := by
  simp [State.reset]

theorem reset_le (k : Fin 6) : State.reset.le[k] = false := by
  simp [State.reset]

/-- Settles O11: the step's state and the power-on state have the same registers, and those are the table's. -/
theorem resetPutsEveryRegisterAtItsValue : Obligations.ResetPutsEveryRegisterAtItsValue := by
  intro s a es h
  refine ⟨_, stepWith_reset Config.lmrs h, fun u hu => ?_⟩
  have hsame : SameRegisters State.reset u := by
    rcases List.mem_pair.mp hu with rfl | rfl
    · exact sameRegisters_reset_resetBlock _
    · rfl
  rw [hsame]
  exact ⟨reset_pixel, fun _ => rfl, rfl, rfl, rfl, rfl, rfl, rfl, reset_raw, rfl, reset_le, rfl, rfl, rfl, rfl, rfl,
    rfl, rfl, rfl⟩

/-! ### The periods (rule R22) -/

/-- Both row periods are at least 1. -/
def State.PeriodsPos (s : State) : Prop := s.rp ≠ 0 ∧ s.rpp ≠ 0

theorem one_le_toNat_iff (p : Period) : 1 ≤ p.toNat ↔ p ≠ 0 := by
  simp [Nat.one_le_iff_ne_zero, ← BitVec.toNat_inj]

/-- A TICK takes RP from RP or RPP and leaves RPP (rule R115). -/
theorem tick_keeps_periodsPos (c : Config) {s : State} (h : s.PeriodsPos) : (s.tick c).PeriodsPos := by
  obtain ⟨hrp, hrpp⟩ := h
  refine ⟨?_, by simpa using hrpp⟩
  by_cases ha : s.advances <;> simpa [State.periodNext, ha]

/-- A command leaves RP, and what it stores in RPP is a clamped period (rules R34, R121). -/
theorem exec_keeps_periodsPos {i : Instr} {s t : State} (h : s.PeriodsPos) (hx : exec i s = .next t) :
    t.PeriodsPos := by
  obtain ⟨hrp, hrpp⟩ := h
  obtain ⟨_, _, _, _, p, _, _, he, -, -, -, -, hp⟩ := exec_cases i s
  cases he.symm.trans hx
  rcases hp with rfl | ⟨q, -, rfl⟩
  · exact ⟨hrp, hrpp⟩
  · exact ⟨hrp, clampPeriod_ne_zero q⟩

/-- Every step keeps both periods at least 1, under every legal choice of RP_RESET (rules R19, R22). -/
theorem stepWith_keeps_periodsPos {c : Config} {s t : State} (hc : c.wf) (hs : s.PeriodsPos)
    (h : stepWith c s = .next t) : t.PeriodsPos := by
  rcases stepWith_cases c s with ⟨-, he⟩ | ⟨es, -, he⟩ | ⟨w, i, es, -, -, he⟩ | ⟨w, why, es, -, -, he⟩ |
    ⟨w, es, -, he⟩ | ⟨k, v, es, -, he⟩ | ⟨a, es, -, he⟩ | ⟨a, es, -, he⟩ <;> rw [he] at h
  · cases h; exact hs
  · cases h; exact tick_keeps_periodsPos c (s := s.setEvents es) hs
  · exact exec_keeps_periodsPos (s := s.setEvents es) hs h
  · cases h
  · cases h; exact tick_keeps_periodsPos c (s := s.setEvents es) hs
  · cases h; exact hs
  · cases h; exact hs
  · cases h; exact ⟨hc, hc⟩

/-- Settles O15: positive periods are an invariant of every step. -/
theorem periodsAreNeverZero : Obligations.PeriodsAreNeverZero := by
  refine ⟨by decide, fun c s t hc hrp hrpp h => ?_, fun _ => rfl⟩
  simp only [one_le_toNat_iff] at hrp hrpp ⊢
  exact stepWith_keeps_periodsPos hc ⟨hrp, hrpp⟩ h

/-! ### The latched events (rule R27) -/

/-- The next step is a WASPR of channel `k` (rule R104). -/
def ClearsNext (k : Fin 6) (s : State) : Prop :=
  ∃ w es ch, s.events = .cmd w :: es ∧ decode w = .ok (.waspr ch) ∧ ch.toNat = k.val

/-- The next step is a TICK, alone or with a command after it (rules R4, R153). -/
def TickNext (s : State) : Prop := ∃ es w, s.events = .tick :: es ∨ s.events = .tickAndCmd w :: es

/-- The condition under which SAMPLE latches channel `k` (rules R100, R101). -/
def LatchCondition (k : Fin 6) (s : State) : Prop :=
  (∃ d : Fin 5, d.val = k.val ∧ s.raw[d] = true ∧ s.btn[d] = false) ∨
    (k.val = 5 ∧ s.asamp.toNat + s.ath.toNat ≤ s.adc.toNat)

theorem latchesNext_iff (c : Config) (k : Fin 6) (s : State) : LatchesNext c k s ↔
    TickNext s ∧ (s.tick c).tsra = (s.tick c).rp / 2 ∧ LatchCondition k s := Iff.rfl

theorem pressEdge_eq_true_iff (old new : Bit) : pressEdge old new = true ↔ old = true ∧ new = false := by
  cases old <;> cases new <;> decide

theorem latchCondition_digital (d : Fin 5) (s : State) :
    LatchCondition (digitalAsChannel d) s ↔ pressEdge s.raw[d] s.btn[d] = true := by
  have hd : d.val ≠ 5 := by omega
  simp [LatchCondition, pressEdge_eq_true_iff, digitalAsChannel, Fin.val_inj, hd]

theorem latchCondition_analog (s : State) :
    LatchCondition analogChannel s ↔ riseReached s.asamp s.ath s.adc = true := by
  have hd (d : Fin 5) : d.val ≠ 5 := by omega
  simp [LatchCondition, riseReached, analogChannel, hd]

/-- The sample check, read from the TSRA and RP that the TICK leaves (rule R115). -/
theorem samples_iff (c : Config) (s : State) : s.samples = true ↔ (s.tick c).tsra = (s.tick c).rp / 2 := by
  simp [State.samples]

/-- A TICK only sets a flag, in its SAMPLE and under the channel's condition (rule R27). -/
theorem tick_le_iff (c : Config) (s : State) (k : Fin 6) : (s.tick c).le[k] = true ↔
    s.le[k] = true ∨ s.samples = true ∧ LatchCondition k s := by
  rcases State.channel_cases k with ⟨d, rfl⟩ | rfl
  · simp only [State.tick_le_digital, latchCondition_digital, Bool.or_eq_true, Bool.and_eq_true]
  · simp only [State.tick_le_analog, latchCondition_analog, Bool.or_eq_true, Bool.and_eq_true]

/-- A channel field names channel `k` when it is its number (rule R104). -/
theorem channel_eq_some_iff (ch : IndexField) (k : Fin 6) : channel ch = some k ↔ ch.toNat = k.val := by
  rcases channel_field_cases ch with ⟨j, hj, hval⟩ | ⟨hnone, hge⟩
  · simp [hj, ← hval, Fin.ext_iff]
  · have hk : ch.toNat ≠ k.val := by omega
    simp [hnone, hk]

/-- WASPR of a channel answers its flag and clears it (rule R104). -/
theorem exec_waspr {ch : IndexField} {k : Fin 6} (h : ch.toNat = k.val) (s : State) :
    exec (.waspr ch) s = .next ((s.respond (zext16Bit s.le[k])).setLe k false) := by
  simp [exec, execWaspr, (channel_eq_some_iff ch k).mpr h]

/-- A command only clears a flag, and only WASPR of the flag's own channel does (rule R27). -/
theorem exec_le_iff {i : Instr} {s t : State} (hx : exec i s = .next t) (k : Fin 6) :
    t.le[k] = true ↔ s.le[k] = true ∧ ¬∃ ch, i = .waspr ch ∧ ch.toNat = k.val := by
  by_cases hi : ∃ ch, i = .waspr ch ∧ ch.toNat = k.val
  · obtain ⟨ch, rfl, hch⟩ := hi
    cases (exec_waspr hch s).symm.trans hx
    simp [hch]
  · obtain ⟨_, _, l, _, _, _, _, he, -, -, hl, -, -⟩ := exec_cases i s
    cases he.symm.trans hx
    rcases hl with rfl | ⟨ch, j, rfl, hj, rfl⟩
    · exact (and_iff_left hi).symm
    · have hjk : j.val ≠ k.val := fun e => hi ⟨ch, rfl, ((channel_eq_some_iff ch j).mp hj).trans e⟩
      rw [and_iff_left hi]
      simp [hjk]

/-- No TICK reads the events that wait (rule R34). -/
theorem tick_setEvents (c : Config) (s : State) (es : List Event) :
    (s.setEvents es).tick c = (s.tick c).setEvents es := by
  have hle (k : Fin 6) : ((s.setEvents es).tick c).le[k] = (s.tick c).le[k] :=
    Bool.eq_iff_iff.mpr ((tick_le_iff c (s.setEvents es) k).trans (tick_le_iff c s k).symm)
  have hwrites : (s.setEvents es).tickWrites c = s.tickWrites c := rfl
  obtain ⟨hpins, hchips⟩ := State.pinWrites_wire (s.tickWrites c) (s := s) (t := s.setEvents es) rfl rfl
  ext1
  case le => exact Vector.ext fun i hi => hle ⟨i, hi⟩
  case pins => simp only [State.setEvents_pins, State.tick_wire, hwrites, hpins]
  case chips => simp only [State.setEvents_chips, State.tick_wire, hwrites, hchips]
  -- In the other fields the checks and the reads are those of `s` by definition.
  all_goals simp <;> rfl

/-- A step that meets a TICK leaves what the TICK leaves, whatever comes next (rules R4, R155). -/
theorem stepWith_of_tickNext {c : Config} {s t : State} (ht : TickNext s) (h : stepWith c s = .next t) :
    ∃ es, t = (s.tick c).setEvents es := by
  obtain ⟨es, w, he | he⟩ := ht <;> simp only [stepWith, he, perform, tick_setEvents] at h <;> cases h
  · exact ⟨es, rfl⟩
  · exact ⟨.cmd w :: es, rfl⟩

/-- Rule R27, over every step but a reset: a flag is 1 after it exactly when the step latches it, or it was 1 and the
step is no WASPR of its channel. -/
theorem stepWith_le_iff {c : Config} {s t : State} (h : stepWith c s = .next t)
    (hr : ∀ a es, s.events ≠ .reset a :: es) (k : Fin 6) :
    t.le[k] = true ↔ LatchesNext c k s ∨ s.le[k] = true ∧ ¬ClearsNext k s := by
  by_cases ht : TickNext s
  · have hclear : ¬ClearsNext k s := by
      rintro ⟨w, es, ch, he, -⟩
      obtain ⟨es', w', he' | he'⟩ := ht <;> simp [he] at he'
    obtain ⟨es, rfl⟩ := stepWith_of_tickNext ht h
    rw [State.setEvents_le, tick_le_iff, samples_iff c, latchesNext_iff, and_iff_right ht, and_iff_left hclear, or_comm]
  · have hlatch : ¬LatchesNext c k s := fun ⟨htick, _⟩ => ht htick
    rw [or_iff_right hlatch]
    rcases stepWith_cases c s with ⟨hev, he⟩ | ⟨es, hev, he⟩ | ⟨w, i, es, hev, hd, he⟩ | ⟨w, why, es, hev, hd, he⟩ |
      ⟨w, es, hev, he⟩ | ⟨j, v, es, hev, he⟩ | ⟨a, es, hev, he⟩ | ⟨a, es, hev, he⟩ <;> rw [he] at h
    · cases h; simp [ClearsNext, hev]
    · exact absurd ⟨es, 0, .inl hev⟩ ht
    · rw [exec_le_iff h]; simp [ClearsNext, hev, hd]
    · cases h
    · exact absurd ⟨es, w, .inr hev⟩ ht
    · cases h; simp [ClearsNext, hev]
    · cases h; simp [ClearsNext, hev]
    · exact absurd hev (hr a es)

/-- The step that performs a WASPR answers the flag (rules R70, R104). -/
theorem stepWith_waspr_resp {c : Config} {s t : State} {w : CmdWord} {es : List Event} {ch : IndexField} {k : Fin 6}
    (hev : s.events = .cmd w :: es) (hd : decode w = .ok (.waspr ch)) (hch : ch.toNat = k.val)
    (h : stepWith c s = .next t) : t.resp = some (zext16Bit s.le[k]) := by
  simp only [stepWith, hev, perform, runWord, hd, exec_waspr hch] at h
  cases h
  rfl

theorem zext16Bit_eq (b : Bit) : zext16Bit b = if b then 0x0001 else 0x0000 := by
  cases b <;> rfl

/-- Settles O17: each of its clauses is one side of `stepWith_le_iff`. -/
theorem latchedEventsChangeInTwoWays : Obligations.LatchedEventsChangeInTwoWays := by
  intro c s t k h hr
  have hle := stepWith_le_iff h hr k
  refine ⟨fun hs => ?_, fun hs ht => ?_, fun w es ch hev hd hch => ⟨?_, ?_⟩⟩
  · rw [hle, hs, latchesNext_iff]
    simp only [Bool.false_eq_true, false_and, or_false]
    refine and_congr_right fun htick => ?_
    obtain ⟨es, rfl⟩ := stepWith_of_tickNext htick h
    rfl
  · by_contra hclear
    simp [ht, hs, show ¬ClearsNext k s from hclear] at hle
  · rw [stepWith_waspr_resp hev hd hch h, zext16Bit_eq]
  · have hclear : ClearsNext k s := ⟨w, es, ch, hev, hd, hch⟩
    have hlatch : ¬LatchesNext c k s := by simp [LatchesNext, hev]
    simpa [hclear, hlatch] using hle

end Sys2Proof.Machine
end

section
/-! # 30_encoding.md: the opcode map, the reserved words, LDFRM and the directives (O3, O4, O6) -/

namespace Sys2Proof

/-! ### The opcode map (rule R68) -/

/-- A row of the map whose mask is the opcode and the `n` bits from `lo`, and whose match is an opcode and zeros: the
word has that opcode, and a zero field (rules R63 to R68). -/
theorem masked_eq_iff (op : BitVec 4) (lo n : Nat) {w mask value : CmdWord} (hn : lo + n ≤ 12)
    (hmask : ∀ i < 16, mask.getLsbD i = decide (12 ≤ i ∨ lo ≤ i ∧ i < lo + n)) (hvalue : value = op ++ 0#12) :
    w &&& mask = value ↔ opField w = op ∧ w.extractLsb' lo n = 0 := by
  rw [word_eq_iff_bits, opField, field_eq_iff_bits, field_eq_iff_bits]
  subst hvalue
  simp only [BitVec.getLsbD_and, BitVec.getLsbD_append]
  constructor
  · refine fun h => ⟨fun i hi => ?_, fun i hi => ?_⟩
    · simpa [hmask (12 + i) (by omega)] using h (12 + i) (by omega)
    · simpa [hmask (lo + i) (by omega), hi, show lo + i < 12 by omega] using h (lo + i) (by omega)
  · rintro ⟨hop, hzero⟩ i hi
    rw [hmask i hi]
    by_cases hhigh : 12 ≤ i
    · simpa [hhigh, show ¬i < 12 by omega] using hop (i - 12) (by omega)
    · by_cases hfield : lo ≤ i ∧ i < lo + n
      · simpa [hfield, show i < 12 by omega] using hzero (i - lo) (by omega)
      · simp [hhigh, hfield, show i < 12 by omega]

section
variable (op : BitVec 4) (value : CmdWord) (hvalue : value = op ++ 0#12) (w : CmdWord)
include hvalue

/-- Format P's row: opcode, and zero bits 3:1 (rule R64). -/
theorem masked_formatP_iff : w &&& 0xF00E = value ↔ opField w = op ∧ zeroP w = 0 :=
  masked_eq_iff op 1 3 (by decide) (by decide) hvalue

/-- Format Z's rows: opcode, and zero bits 11:0 (rule R63). -/
theorem masked_formatZ_iff : w &&& 0xFFFF = value ↔ opField w = op ∧ lowImm w = 0 :=
  masked_eq_iff op 0 12 (by decide) (by decide) hvalue

/-- Format C's rows: opcode, and zero bits 7:0 (rule R66). -/
theorem masked_formatC_iff : w &&& 0xF0FF = value ↔ opField w = op ∧ lowByte w = 0 :=
  masked_eq_iff op 0 8 (by decide) (by decide) hvalue

/-- The rows of formats B and I: the opcode alone (rules R65, R67). -/
theorem masked_opcode_iff : w &&& 0xF000 = value ↔ opField w = op :=
  (masked_eq_iff op 0 0 (by decide) (by decide) hvalue).trans (and_iff_left (Subsingleton.elim _ _))

end

/-- The opcode is in use and the field that its format wants zero is zero (rules R62 to R67). -/
def HasCommandFields (w : CmdWord) : Prop :=
  opField w = 1#4 ∧ zeroP w = 0 ∨ opField w = 2#4 ∧ lowImm w = 0 ∨ opField w = 3#4 ∧ lowImm w = 0 ∨
  opField w = 4#4 ∧ lowImm w = 0 ∨ opField w = 5#4 ∨ opField w = 6#4 ∧ lowByte w = 0 ∨
  opField w = 7#4 ∧ lowByte w = 0 ∨ opField w = 8#4 ∧ lowImm w = 0 ∨ opField w = 9#4 ∨ opField w = 10#4

theorem exists_decode_eq_ok_iff (w : CmdWord) : (∃ i, decode w = .ok i) ↔ HasCommandFields w := by
  simp only [decode_eq_ok, exists_or, exists_and_left, exists_eq, and_true, HasCommandFields]

/-- The rows of the map, read as fields. -/
theorem exists_row_matches_iff (w : CmdWord) : (∃ r ∈ opcodeMap, r.Matches w) ↔ HasCommandFields w := by
  simp only [opcodeMap, List.mem_cons, List.not_mem_nil, or_false, exists_eq_or_imp, exists_eq_left, MapRow.Matches,
    masked_formatP_iff 1#4 0x1000 rfl, masked_formatZ_iff 2#4 0x2000 rfl, masked_formatZ_iff 3#4 0x3000 rfl,
    masked_formatZ_iff 4#4 0x4000 rfl, masked_opcode_iff 5#4 0x5000 rfl, masked_formatC_iff 6#4 0x6000 rfl,
    masked_formatC_iff 7#4 0x7000 rfl, masked_formatZ_iff 8#4 0x8000 rfl, masked_opcode_iff 9#4 0x9000 rfl,
    masked_opcode_iff 10#4 0xA000 rfl, HasCommandFields]

/-- Every row compares the whole opcode, so a word that matches a row has the row's opcode. -/
theorem opField_of_matches {r : MapRow} (hr : r ∈ opcodeMap) {w : CmdWord} (h : r.Matches w) :
    opField w = opField r.value := by
  have hmasks : ∀ r ∈ opcodeMap, opField r.mask = BitVec.allOnes 4 := by decide
  calc opField w = opField w &&& opField r.mask := by rw [hmasks r hr, BitVec.and_allOnes]
    _ = opField (w &&& r.mask) := BitVec.extractLsb'_and.symm
    _ = opField r.value := congrArg opField h

/-- No two rows have the same opcode, so no two match one word. -/
theorem row_eq_of_matches {r r' : MapRow} (hr : r ∈ opcodeMap) (hr' : r' ∈ opcodeMap) {w : CmdWord}
    (h : r.Matches w) (h' : r'.Matches w) : r = r' := by
  have hinj : ∀ r ∈ opcodeMap, ∀ r' ∈ opcodeMap, opField r.value = opField r'.value → r = r' := by decide
  exact hinj r hr r' hr' ((opField_of_matches hr h).symm.trans (opField_of_matches hr' h'))

/-- Settles O3: each row's mask and match say what the decoder asks of the opcode and the must-be-zero field. -/
theorem decoderAgreesWithTheOpcodeMap : Obligations.DecoderAgreesWithTheOpcodeMap := by
  intro w
  have hexists := (exists_decode_eq_ok_iff w).trans (exists_row_matches_iff w).symm
  refine ⟨(masked_formatP_iff 1#4 0x1000 rfl w).trans ?_, (masked_formatZ_iff 2#4 0x2000 rfl w).trans ?_,
    (masked_formatZ_iff 3#4 0x3000 rfl w).trans ?_, (masked_formatZ_iff 4#4 0x4000 rfl w).trans ?_,
    (masked_opcode_iff 5#4 0x5000 rfl w).trans ?_, (masked_formatC_iff 6#4 0x6000 rfl w).trans ?_,
    (masked_formatC_iff 7#4 0x7000 rfl w).trans ?_, (masked_formatZ_iff 8#4 0x8000 rfl w).trans ?_,
    (masked_opcode_iff 9#4 0x9000 rfl w).trans ?_, (masked_opcode_iff 10#4 0xA000 rfl w).trans ?_, hexists,
    fun r hr r' hr' => row_eq_of_matches hr hr'⟩
  -- What is left of each row is its own case of `decode_eq_ok`; the other nine name other commands.
  all_goals simp [decode_eq_ok, indexHi, indexLo, valueBit, lowByte, lowImm]

/-! ### Reserved words (rule R72) -/

theorem exists_decode_eq_error_iff (w : CmdWord) : (∃ why, decode w = .error why) ↔ ¬∃ i, decode w = .ok i := by
  cases decode w <;> simp

end Sys2Proof

namespace Sys2Proof.Machine

/-- Rule R72's list, in the decoder's names for the fields. -/
theorem isReserved_iff_fields (w : CmdWord) : IsReserved w ↔
    opField w ∈ [0x0#4, 0xB#4, 0xC#4, 0xD#4, 0xE#4, 0xF#4] ∨
    opField w ∈ [0x2#4, 0x3#4, 0x4#4, 0x8#4] ∧ lowImm w ≠ 0 ∨
    opField w = 0x1#4 ∧ zeroP w ≠ 0 ∨
    opField w ∈ [0x6#4, 0x7#4] ∧ lowByte w ≠ 0 := Iff.rfl

/-- The list is the words that do not decode: for each opcode both ask the same of the must-be-zero field. -/
theorem isReserved_iff_decode_error (w : CmdWord) : IsReserved w ↔ ∃ why, decode w = .error why := by
  rw [exists_decode_eq_error_iff, exists_decode_eq_ok_iff, isReserved_iff_fields, HasCommandFields]
  rcases nibble_cases (opField w) with h | h | h | h | h | h | h | h | h | h | h | h | h | h | h | h <;> simp [h]

/-- The step refuses a word that does not decode, by name (rule R72). -/
theorem stepWith_of_decode_error (c : Config) {s : State} {w : CmdWord} {es : List Event} {why : Reserved}
    (hev : s.events = .cmd w :: es) (hd : decode w = .error why) : stepWith c s = .refused (.reservedWord w why) := by
  simp [stepWith, hev, perform, runWord, hd]

/-- The hardware takes such a word from the port and gives no response; nothing else changes (rules R70, R72). -/
theorem hardwareStepWith_of_decode_error (c : Config) {s : State} {w : CmdWord} {es : List Event} {why : Reserved}
    (hev : s.events = .cmd w :: es) (hd : decode w = .error why) :
    hardwareStepWith c s = .next (s.setEvents es).noResponse := by
  simp [hardwareStepWith, stepWith_of_decode_error c hev hd, ignoreWord, hev]

/-- Settles O4: the listed words are those that do not decode, which the model's step refuses and the hardware's step
ignores. -/
theorem reservedWordsAreRefusedAndIgnored : Obligations.ReservedWordsAreRefusedAndIgnored := by
  refine ⟨isReserved_iff_decode_error, fun w es s hev hres => ?_, ?_⟩
  · obtain ⟨why, hd⟩ := (isReserved_iff_decode_error w).mp hres
    exact ⟨⟨why, hd, stepWith_of_decode_error Config.lmrs hev hd⟩, hardwareStepWith_of_decode_error Config.lmrs hev hd⟩
  · exact (isReserved_iff_decode_error 0).mpr ⟨.opcode 0, rfl⟩

/-! ### LDFRM and the directives (rules R76, R136) -/

/-- LDROW of a display row writes that row of PB and has no response (rules R70, R135). -/
theorem exec_ldrow_row (k : Fin 8) (b : Byte) (s : State) :
    exec (.ldrow (BitVec.ofNat 4 k.val) b) s = .next (s.setPixelRow k b).noResponse := by
  have hk : pixelIndex (BitVec.ofNat 4 k.val) = some k := by revert k; decide
  simp [exec, execLdrow, hk]

/-- Display rows of PB, each to its byte. -/
def State.setPixelRows (s : State) (ks : List (Fin 8)) (f : Fin 8 → Byte) : State :=
  ks.foldl (fun s k => s.setPixelRow k (f k)) s

@[simp] theorem State.setPixelRows_nil (s : State) (f : Fin 8 → Byte) : s.setPixelRows [] f = s := rfl

@[simp] theorem State.setPixelRows_cons (s : State) (k : Fin 8) (ks : List (Fin 8)) (f : Fin 8 → Byte) :
    s.setPixelRows (k :: ks) f = (s.setPixelRow k (f k)).setPixelRows ks f := rfl

theorem State.setPb_setPb (s : State) (g g' : Grid) : (s.setPb g).setPb g' = s.setPb g' := rfl

/-- Only PB is written. -/
theorem State.setPixelRows_frame (s : State) (ks : List (Fin 8)) (f : Fin 8 → Byte) :
    s.setPixelRows ks f = s.setPb (s.setPixelRows ks f).pb := by
  induction ks generalizing s with
  | nil => rfl
  | cons k ks ih =>
    rw [State.setPixelRows_cons, ih, State.setPixelRow_frame s, State.setPb_setPb, State.setPb_pb]

@[simp] theorem State.noResponse_noResponse (s : State) : s.noResponse.noResponse = s.noResponse := rfl

/-- A command that writes PB alone and has no response changes nothing else. -/
theorem State.noResponse_frame {s t : State} (h : t = s.setPb t.pb) :
    t.noResponse = { s with pb := t.noResponse.pb, resp := none } := by
  change t.noResponse = { s with pb := t.pb, resp := none }
  generalize t.pb = g at h ⊢
  rw [h]
  rfl

/-- Whether the last command had a response is nothing to a write of PB. -/
theorem State.setPixelRows_noResponse (s : State) (ks : List (Fin 8)) (f : Fin 8 → Byte) :
    s.noResponse.setPixelRows ks f = (s.setPixelRows ks f).noResponse :=
  List.foldl_hom State.noResponse fun _ _ => List.foldl_hom State.noResponse fun _ _ => rfl

/-- LDROWs of display rows, one at least, write those rows and have no response (rules R70, R135). -/
theorem execAll_ldrows (k : Fin 8) (ks : List (Fin 8)) (f : Fin 8 → Byte) (s : State) :
    execAll ((k :: ks).map fun k => .ldrow (BitVec.ofNat 4 k.val) (f k)) s =
      .next (s.setPixelRows (k :: ks) f).noResponse := by
  induction ks generalizing k s with
  | nil =>
    simp only [List.map_cons, List.map_nil, execAll, exec_ldrow_row, State.setPixelRows_cons, State.setPixelRows_nil]
  | cons k' ks ih =>
    rw [List.map_cons, execAll, exec_ldrow_row]
    change execAll ((k' :: ks).map _) (s.setPixelRow k (f k)).noResponse = _
    rw [ih, State.setPixelRows_noResponse, State.noResponse_noResponse, State.setPixelRows_cons s]

/-- LDFRM's eight commands write the eight rows and have no response (rules R76, R136). -/
theorem execAll_ldfrm (b : Vector Byte 8) (s : State) :
    execAll (ldfrm b) s = .next (s.setPixelRows octet fun k => b[k]).noResponse :=
  execAll_ldrows 0 [1, 2, 3, 4, 5, 6, 7] (fun k => b[k]) s

/-- The events of LDFRM are the eight LDROW words in order (rule R76). -/
theorem ldfrm_events (b0 b1 b2 b3 b4 b5 b6 b7 : Byte) :
    (Line.ldfrm b0.toNat b1.toNat b2.toNat b3.toNat b4.toNat b5.toNat b6.toNat b7.toNat).events =
      (ldfrm #v[b0, b1, b2, b3, b4, b5, b6, b7]).map fun i => .cmd (encode i) := by
  simp [Line.events, Line.instrs, Line.directive]

/-- A line with no command stands for its directive's steps. -/
theorem events_of_instrs_eq_nil {l : Line} (h : l.instrs = []) : l.events = l.directive := by
  simp [Line.events, h]

/-- Settles O6: LDFRM's words and what they write, then the directives one by one. -/
theorem ldfrmAndDirectivesExpand : Obligations.LdfrmAndDirectivesExpand := by
  refine ⟨ldfrm_events, fun b s => ⟨_, execAll_ldfrm b s, ?_⟩, fun n => ⟨rfl, rfl⟩, fun k v => ⟨?_, rfl⟩,
    fun a => ⟨?_, rfl⟩, rfl, rfl⟩
  · exact State.noResponse_frame (State.setPixelRows_frame s octet _)
  · rw [events_of_instrs_eq_nil rfl]
    cases v <;> simp [Line.directive]
  · rw [events_of_instrs_eq_nil rfl]
    simp [Line.directive]

end Sys2Proof.Machine
end

section
/-! # 40_serial_protocol.md: the pin writes of the two transfers (O21, O24) -/

namespace Sys2Proof.Machine

/-- SCOL from any state: the call, the frame's writes and the levels they end with; of the rest only the chips
change (rules R80, R81). -/
theorem State.scol_frame (c : Config) (b : Byte) (s : State) :
    s.scol c b = { s with
      callLog := s.callLog ++ [.col b]
      pinTrace := s.pinTrace ++ colFrame c b
      pins := ⟨b.getLsbD 7, true, s.pins.clkRow, false, !c.oeDisableLevel⟩
      chips := (s.scol c b).chips } := by
  rw [scol_eq]

/-- SROW from any state, whatever level CLK_ROW has: that matters to the chips alone (rules R83, R84). -/
theorem State.srow_frame (b : Byte) (s : State) :
    s.srow b = { s with
      callLog := s.callLog ++ [.row b]
      pinTrace := s.pinTrace ++ rowFrame b
      pins := ⟨b.getLsbD 7, s.pins.clkCol, false, false, s.pins.oeN⟩
      chips := (s.srow b).chips } := by
  rw [← srow_pins]
  exact pinWrites_frame (s.logCall (.row b)) (rowFrame b)

/-- Settles O21: the transfer's frame, its loop over the bits 0 to 7 written out. -/
theorem columnTransferIsThisSequence : Obligations.ColumnTransferIsThisSequence := by
  intro b s
  refine (s.scol_frame Config.lmrs b).trans ?_
  simp [colFrame, octet, Config.lmrs]

/-- Settles O24: the transfer's frame, its loop over the bits 0 to 7 written out. -/
theorem rowTransferIsThisSequence : Obligations.RowTransferIsThisSequence := by
  intro b s
  refine (s.srow_frame b).trans ?_
  simp [rowFrame, octet]

end Sys2Proof.Machine
end

section
/-! # 41_row_scanner.md: what one ADVROW sends, and the step to the next row (O28) -/

namespace Sys2Proof.Machine

/-- Rotating right by one is shifting in at bit 7 the bit that falls out at bit 0 (00_scope.md section 6.1). -/
theorem ror8_eq_shiftIn (m : Byte) : ror8 m = shiftIn (m.getLsbD 0) m := by
  apply BitVec.eq_of_getLsbD_eq
  intro j hj
  rw [getLsbD_shiftIn]
  by_cases h7 : j = 7
  · subst h7
    simp [ror8]
  · have hlt : j < 7 := by omega
    simp [ror8, hlt, Nat.add_comm]

/-- The pin levels after an ADVROW, from any state: DATA and the row pins as its SROW leaves them, CLK_COL and OE_N
as its SCOL does (rules R81, R84). -/
theorem State.advRow_levels (c : Config) (s : State) :
    (s.advRow c).pins = ⟨s.arm.getLsbD 7, true, false, false, !c.oeDisableLevel⟩ := by
  rw [(s.advRow_transfers c).1, srow_pins, scol_eq]

/-- Settles O28: the ADVROW's frame, its two transfers, and the rotation read as a shift with bit 0 coming back in. -/
theorem advrowSendsOneRowAndSteps : Obligations.AdvrowSendsOneRowAndSteps := by
  intro c s
  obtain ⟨hpins, hchips⟩ := s.advRow_transfers c
  refine ⟨by simp, by simp, ?ari, ?low, ?top, hpins, hchips, s.advRow_levels c, ?frame⟩
  case ari => simp [BitVec.toNat_add]
  case low => exact fun j hj => by rw [State.advRow_arm, ror8_eq_shiftIn, getLsbD_shiftIn, if_pos hj]
  case top => rw [State.advRow_arm, ror8_eq_shiftIn, getLsbD_shiftIn]; simp
  case frame =>
    rw [State.advRow_ari, State.advRow_arm, State.advRow_callLog, State.advRow_pinTrace]
    exact s.advRow_frame c

end Sys2Proof.Machine
end

section
/-! # 42_input_sampler.md: SAMPLE and its two parts, and the host commands of the sampler (O32 to O35, O37 to O39) -/

namespace Sys2Proof

/-! ### Words of formats C and I (rules R66, R67) -/

theorem opField_append (op : BitVec 4) (x : BitVec 12) : opField (op ++ x) = op :=
  BitVec.extractLsb'_append_eq_left

theorem lowImm_append (op : BitVec 4) (x : BitVec 12) : lowImm (op ++ x) = x :=
  BitVec.extractLsb'_append_eq_right

theorem opField_formatC (op ch : BitVec 4) : opField (op ++ ch ++ 0#8) = op := by
  have happend : (op ++ ch ++ 0#8 : CmdWord) = op ++ (ch ++ 0#8) := BitVec.append_assoc ..
  rw [happend, opField_append]

theorem indexHi_formatC (op ch : BitVec 4) : indexHi (op ++ ch ++ 0#8) = ch := by
  revert op ch
  decide

theorem lowByte_formatC (op ch : BitVec 4) : lowByte (op ++ ch ++ 0#8) = 0 :=
  BitVec.extractLsb'_append_eq_right

theorem decode_waspr (ch : IndexField) : decode (0x6#4 ++ ch ++ 0#8) = .ok (.waspr ch) := by
  rw [decode_eq_ok, opField_formatC, lowByte_formatC, indexHi_formatC]
  simp

theorem decode_isheld (ch : IndexField) : decode (0x7#4 ++ ch ++ 0#8) = .ok (.isheld ch) := by
  rw [decode_eq_ok, opField_formatC, lowByte_formatC, indexHi_formatC]
  simp

theorem decode_setthr (t : Threshold) : decode (0x9#4 ++ t) = .ok (.setthr t) := by
  rw [decode_eq_ok, opField_append, lowImm_append]
  simp

end Sys2Proof

namespace Sys2Proof.Machine

/-! ### SAMPLE and its two parts (rules R100 to R102) -/

theorem riseReached_eq_true_iff (asamp : Reading) (ath : Threshold) (a : Reading) :
    riseReached asamp ath a = true ↔ asamp.toNat + ath.toNat ≤ a.toNat :=
  decide_eq_true_iff

namespace State

/-- SAMPLE_DIG writes RAW[k] and LE and nothing else (rule R100). -/
theorem sampleDig_frame (k : Fin 5) (n : Bit) (s : State) :
    s.sampleDig k n = { s with raw := s.raw.set k n, le := (s.sampleDig k n).le } := by
  ext1 <;> simp

/-- SAMPLE_ANA writes ASAMP and LE and nothing else (rule R101). -/
theorem sampleAna_frame (a : Reading) (s : State) :
    s.sampleAna a = { s with asamp := a, le := (s.sampleAna a).le } := by
  ext1 <;> simp

/-- A condition on channel `k` sets no other channel's flag (rule R27). -/
theorem getElem_latchWhen_of_ne (s : State) (c : Bool) {k j : Fin 6} (h : j ≠ k) :
    (s.latchWhen c k).le[j] = s.le[j] := by
  rw [getElem_latchWhen, decide_eq_false h.symm, Bool.and_false, Bool.or_false]

theorem sampleDig_le_own_iff (k : Fin 5) (n : Bit) (s : State) :
    (s.sampleDig k n).le[digitalAsChannel k] = true ↔
      s.le[digitalAsChannel k] = true ∨ (s.raw[k] = true ∧ n = false) := by
  rw [getElem_sampleDig_le, decide_eq_true rfl, Bool.and_true, Bool.or_eq_true, pressEdge_eq_true_iff]

theorem sampleAna_le_analog_iff (a : Reading) (s : State) : (s.sampleAna a).le[analogChannel] = true ↔
    s.le[analogChannel] = true ∨ s.asamp.toNat + s.ath.toNat ≤ a.toNat := by
  rw [getElem_sampleAna_le, decide_eq_true rfl, Bool.and_true, Bool.or_eq_true, riseReached_eq_true_iff]

/-- Without a rise of at least ATH the analog part latches nothing (rule R101). -/
theorem sampleAna_le_of_lt {a : Reading} {s : State} (h : a.toNat < s.asamp.toNat + s.ath.toNat) :
    (s.sampleAna a).le = s.le := by
  have hrise : riseReached s.asamp s.ath a = false := decide_eq_false (Nat.not_le.mpr h)
  simp [sampleAna, latchWhen, hrise]

end State

/-- Settles O32: the channel's own flag by the press edge, the others because it is latched on its own channel. -/
theorem digitalSampleLatchesThePressEdge : Obligations.DigitalSampleLatchesThePressEdge :=
  fun k n s => ⟨s.sampleDig_le_own_iff k n, fun _ hj => s.getElem_latchWhen_of_ne _ hj, s.sampleDig_frame k n⟩

/-- Settles O33: a fall, and an ATH above every reading, leave the reading below ASAMP + ATH. -/
theorem analogSampleLatchesTheRise : Obligations.AnalogSampleLatchesTheRise := by
  refine fun a s => ⟨s.sampleAna_le_analog_iff a, fun hfall => ?fall, fun hath => ?high, fun hath hle => ?zero,
    fun _ hj => s.getElem_latchWhen_of_ne _ hj, s.sampleAna_frame a⟩
  case fall => exact State.sampleAna_le_of_lt (by omega)
  case high => exact State.sampleAna_le_of_lt (by omega)
  case zero => exact (s.sampleAna_le_analog_iff a).mpr (.inr (by simpa [hath] using hle))

/-- Settles O34: each flag by the condition of its channel, read from the state before the SAMPLE. -/
theorem samplePollsAllSixChannels : Obligations.SamplePollsAllSixChannels := by
  refine fun s => ⟨s.sample_frame, fun k => ?digital, ?analog⟩
  case digital => rw [s.sample_le_digital k, Bool.or_eq_true, pressEdge_eq_true_iff]
  case analog => rw [s.sample_le_analog, Bool.or_eq_true, riseReached_eq_true_iff]

/-! ### The host commands (rules R104 to R109) -/

/-- WASPR of a field that names no channel answers 0 (rule R105). -/
theorem exec_waspr_of_le {ch : IndexField} (h : 6 ≤ ch.toNat) (s : State) :
    exec (.waspr ch) s = .next (s.respond 0) := by
  simp [exec, execWaspr, channel, Nat.not_lt.mpr h]

/-- ISHELD of a digital channel answers whether its pin is at the active level (rule R106). -/
theorem exec_isheld {ch : IndexField} {k : Fin 5} (h : ch.toNat = k.val) (s : State) :
    exec (.isheld ch) s = .next (s.respond (zext16Bit (s.btn[k] == false))) := by
  simp [exec, execIsheld, digitalChannel, h]

/-- ISHELD of a field that names no digital channel answers 0 (rule R107). -/
theorem exec_isheld_of_le {ch : IndexField} (h : 5 ≤ ch.toNat) (s : State) :
    exec (.isheld ch) s = .next (s.respond 0) := by
  simp [exec, execIsheld, digitalChannel, Nat.not_lt.mpr h]

/-- The answer for a pin is 1 at the active level, 0 (rule R106). -/
theorem zext16Bit_beq_false (b : Bit) : zext16Bit (b == false) = if b then 0x0000 else 0x0001 := by
  cases b <;> rfl

theorem toNat_zext16Reading (a : Reading) : (zext16Reading a).toNat = a.toNat :=
  BitVec.toNat_setWidth_of_le (by decide)

/-- Settles O35: in range WASPR's rule, the flag written as a word; out of range the answer 0 alone. -/
theorem wasprAnswersAndClears : Obligations.WasprAnswersAndClears := by
  refine fun ch s => ⟨decode_waspr ch, fun k hk => ?_, fun hout => exec_waspr_of_le hout s⟩
  rw [exec_waspr hk, zext16Bit_eq]
  rfl

/-- Settles O37: in range ISHELD's rule, the pin's level written as a word; out of range the answer 0 alone. -/
theorem isheldAnswersThePinNow : Obligations.IsheldAnswersThePinNow := by
  refine fun ch s => ⟨decode_isheld ch, fun k hk => ?_, fun hout => exec_isheld_of_le hout s⟩
  rw [exec_isheld hk, zext16Bit_beq_false]
  rfl

/-- Settles O38: the answer is the reading zero-extended, which keeps its value. -/
theorem alevelAnswersTheReadingNow : Obligations.AlevelAnswersTheReadingNow :=
  ⟨by decide, fun s => ⟨zext16Reading s.adc, toNat_zext16Reading s.adc, rfl⟩⟩

/-- Settles O39: SETTHR's meaning is the write of ATH, and its word holds `t` whole. -/
theorem setthrWritesTheThreshold : Obligations.SetthrWritesTheThreshold :=
  fun t _ => ⟨decode_setthr t, rfl⟩

end Sys2Proof.Machine
end

section
/-! # 43_tick_dispatcher.md: what a TICK writes, the count of the TICKs, and SETRP (O42, O45, O46) -/

namespace Sys2Proof

/-- SETRP's word is its opcode and the period (rules R67, R68). -/
theorem decode_setrp (p : Period) : decode (0xA#4 ++ p) = .ok (.setrp p) := by
  rw [decode_eq_ok, opField_append, lowImm_append]
  simp

end Sys2Proof

namespace Sys2Proof.Machine

namespace State

/-! ### One TICK, whole (rules R34, R115) -/

/-- The events after a SAMPLE depend on the events, on the inputs and on what the sampler remembers of them alone
(rules R100 to R102). -/
theorem sample_le_congr {s t : State} (hle : t.le = s.le) (hraw : t.raw = s.raw) (hbtn : t.btn = s.btn)
    (hasamp : t.asamp = s.asamp) (hath : t.ath = s.ath) (hadc : t.adc = s.adc) : t.sample.le = s.sample.le := by
  have hk (k : Fin 6) : t.sample.le[k] = s.sample.le[k] := by
    rcases channel_cases k with ⟨d, rfl⟩ | rfl
    · rw [sample_le_digital, sample_le_digital, hle, hraw, hbtn]
    · rw [sample_le_analog, sample_le_analog, hle, hasamp, hath, hadc]
  exact Vector.ext fun i hi => hk ⟨i, hi⟩

/-- A TICK latches what a SAMPLE of the state before it latches, when its sample check matches (rule R115). -/
theorem tick_le (c : Config) (s : State) : (s.tick c).le = if s.samples then s.sample.le else s.le := by
  have hsample : (s.advanced c).sample.le = s.sample.le := by apply sample_le_congr <;> simp
  by_cases h : s.samples <;> simp [tick_def, sampleCheck_advanced, h, hsample]

/-- The state after a TICK, whole: every field from the state before it (rules R34, R115). -/
theorem tick_eq (c : Config) (s : State) :
    s.tick c = { s with
      bzt := s.bzt + 1
      tsra := s.countNext
      rp := s.periodNext
      ari := if s.advances then s.ari + 1 else s.ari
      arm := if s.advances then ror8 s.arm else s.arm
      callLog := if s.advances then s.callLog ++ [.col (s.memRead (rowOf s.ari)), .row s.arm] else s.callLog
      pinTrace := s.pinTrace ++ s.tickWrites c
      pins := (s.pinWrites (s.tickWrites c)).pins
      chips := (s.pinWrites (s.tickWrites c)).chips
      raw := if s.samples then s.btn else s.raw
      asamp := if s.samples then s.adc else s.asamp
      le := if s.samples then s.sample.le else s.le } := by
  ext1
  case pinTrace => exact s.tick_pinTrace_writes c
  case pins => exact (s.tick_wire c).1
  case chips => exact (s.tick_wire c).2
  case le => exact s.tick_le c
  all_goals simp

/-- No TICK writes what the host, the environment and the command port own (rule R34). -/
theorem tick_frame (c : Config) (s : State) : TickFrame s (s.tick c) := by
  constructor <;> simp

/-! ### The two checks as numbers (rule R115) -/

/-- TSRA below RP counts without a wrap (rule R19). -/
theorem toNat_tsra_add_one {s : State} (h : s.tsra < s.rp) : (s.tsra + 1).toNat = s.tsra.toNat + 1 := by
  bv_omega

/-- The row-advance check, on the numbers. -/
theorem advances_iff {s : State} (h : s.tsra < s.rp) : s.advances = true ↔ s.tsra.toNat + 1 = s.rp.toNat := by
  rw [advances, decide_eq_true_iff, ← BitVec.toNat_inj, toNat_tsra_add_one h]

/-- The sample check, on the numbers that the TICK leaves. -/
theorem samples_iff_half (c : Config) (s : State) :
    s.samples = true ↔ (s.tick c).tsra.toNat = (s.tick c).rp.toNat / 2 := by
  rw [samples_iff c, ← BitVec.toNat_inj, BitVec.toNat_udiv]
  rfl

/-! ### BZT and everything else (rule R125) -/

/-- No part of a TICK reads BZT but its own count. -/
theorem tick_setBzt (c : Config) (s : State) (b : BuzzCount) :
    (s.setBzt b).tick c = (s.tick c).setBzt (b + 1) := by
  have hwrites : (s.setBzt b).tickWrites c = s.tickWrites c := rfl
  obtain ⟨hpins, hchips⟩ := pinWrites_wire (s.tickWrites c) (s := s) (t := s.setBzt b) rfl rfl
  have hle : (s.setBzt b).sample.le = s.sample.le := sample_le_congr rfl rfl rfl rfl rfl rfl
  rw [tick_eq, tick_eq, hwrites, hpins, hchips, hle]
  rfl

theorem ticks_setBzt (c : Config) (n : Nat) (s : State) (b : BuzzCount) :
    (s.setBzt b).ticks c n = (s.ticks c n).setBzt (b + BitVec.ofNat 16 n) := by
  induction n with
  | zero => simp [ticks]
  | succ n ih =>
    rw [ticks_succ, ih, tick_setBzt, ticks_succ, BitVec.add_assoc, BitVec.ofNat_add]
    rfl

/-- Every TICK counts: the case of `ticks_setBzt` in which BZT is set to what it holds. -/
theorem ticks_bzt (c : Config) (n : Nat) (s : State) : (s.ticks c n).bzt = s.bzt + BitVec.ofNat 16 n :=
  congrArg State.bzt (ticks_setBzt c n s s.bzt)

theorem toNat_ticks_bzt (c : Config) (n : Nat) (s : State) :
    (s.ticks c n).bzt.toNat = (s.bzt.toNat + n) % 65536 := by
  rw [ticks_bzt, BitVec.toNat_add, BitVec.toNat_ofNat, Nat.add_mod_mod]

/-- COMMIT's writes read PB and go to CF: BZT is the same before, between and after them (rule R132). -/
theorem commitRows_setBzt (s : State) (b : BuzzCount) : (s.setBzt b).commitRows = s.commitRows.setBzt b := by
  rw [commitRows, commitRows]
  exact List.foldl_hom (fun t : State => t.setBzt b) fun _ _ => rfl

/-- LDROW's writes go to PB: BZT is the same before, between and after them (rule R135). -/
theorem setPixelRow_setBzt (s : State) (k : Fin 8) (v : Byte) (b : BuzzCount) :
    (s.setBzt b).setPixelRow k v = (s.setPixelRow k v).setBzt b := by
  rw [setPixelRow, setPixelRow]
  exact List.foldl_hom (fun t : State => t.setBzt b) fun _ _ => rfl

end State

/-- No host command reads or writes BZT (rules R34, R125). -/
theorem exec_setBzt {i : Instr} {s t : State} (b : BuzzCount) :
    exec i s = .next t → exec i (s.setBzt b) = .next (t.setBzt b) := by
  cases i with
  | setpx x y v =>
    simp only [exec, execSetpx]
    cases pixelIndex x <;> cases pixelIndex y <;> rintro ⟨⟩ <;> rfl
  | commit =>
    simp only [exec, execCommit_eq, State.commitRows_setBzt]
    rintro ⟨⟩; rfl
  | ldrow k v =>
    simp only [exec, execLdrow, State.setPixelRow_setBzt]
    cases pixelIndex k <;> rintro ⟨⟩ <;> rfl
  | waspr ch =>
    simp only [exec, execWaspr]
    cases channel ch <;> rintro ⟨⟩ <;> rfl
  | isheld ch =>
    simp only [exec, execIsheld]
    cases digitalChannel ch <;> rintro ⟨⟩ <;> rfl
  | clrall | fillall | alevel | setthr | setrp => rintro ⟨⟩; rfl

/-- Settles O42: each check of the TICK read as numbers, and what it writes in either case. -/
theorem tickCountsAdvancesAndSamples : Obligations.TickCountsAdvancesAndSamples := by
  intro c s hinv
  have hadv := State.advances_iff hinv.tsraBelow
  have hsam := s.samples_iff_half c
  refine ⟨s.toNat_ticks_bzt c 1, fun h => ?advance, fun h => ?count, fun h => ?sample, fun h => ?noSample,
    s.tick_frame c⟩
  case advance =>
    obtain ⟨hpins, hchips⟩ := s.advRow_wire_writes c
    simp [State.tick_eq, State.tickWrites_eq, State.countNext, State.periodNext, hadv.mpr h, hpins, hchips]
  case count =>
    have hstay : ¬s.advances = true := mt hadv.mp h
    refine ⟨?tsra, ?rest⟩
    case tsra => rw [State.tick_tsra, State.countNext, if_neg hstay, State.toNat_tsra_add_one hinv.tsraBelow]
    case rest => simp [State.tick_eq, State.tickWrites_eq, State.periodNext, hstay]
  case sample => simp [State.tick_eq, hsam.mpr h]
  case noSample => simp [State.tick_eq, mt hsam.mp h]

/-- Settles O45: TICKs and commands commute with a write of BZT, which a TICK counts up by one. -/
theorem buzzerTicksCountEveryTick : Obligations.BuzzerTicksCountEveryTick := by
  refine ⟨fun c n s => ⟨s.toNat_ticks_bzt c n, s.ticks_setBzt c n⟩, fun c n s => ?fromReset,
    fun _ _ _ b => exec_setBzt b⟩
  case fromReset =>
    have hzero : (s.resetBlock c).bzt.toNat = 0 := rfl
    rw [State.buzzTicks, State.toNat_ticks_bzt, hzero, Nat.zero_add]

/-- Settles O46: SETRP's meaning is the write of RPP with the clamped period, and its word holds `p` whole. -/
theorem setrpWritesThePendingPeriod : Obligations.SetrpWritesThePendingPeriod :=
  fun p _ => ⟨decode_setrp p, rfl⟩

end Sys2Proof.Machine
end

section
/-! # 44_frame_ops.md: SETPX, COMMIT, CLRALL, FILLALL and LDROW (O49, O50, O52, O53, O55) -/

namespace Sys2Proof

/-! ### Words of formats P and B (rules R64, R65) -/

section formatP
variable (op x y : BitVec 4) (v : Bit)

theorem opField_formatP : opField (op ++ x ++ y ++ 0#3 ++ BitVec.ofBool v) = op := by
  rw [opField, BitVec.extractLsb'_append_eq_of_le (by decide), BitVec.extractLsb'_append_eq_of_le (by decide),
    BitVec.extractLsb'_append_eq_of_le (by decide), BitVec.extractLsb'_append_eq_left]

theorem indexHi_formatP : indexHi (op ++ x ++ y ++ 0#3 ++ BitVec.ofBool v) = x := by
  rw [indexHi, BitVec.extractLsb'_append_eq_of_le (by decide), BitVec.extractLsb'_append_eq_of_le (by decide),
    BitVec.extractLsb'_append_eq_of_le (by decide), BitVec.extractLsb'_append_eq_right]

theorem indexLo_formatP : indexLo (op ++ x ++ y ++ 0#3 ++ BitVec.ofBool v) = y := by
  rw [indexLo, BitVec.extractLsb'_append_eq_of_le (by decide), BitVec.extractLsb'_append_eq_of_le (by decide),
    BitVec.extractLsb'_append_eq_right]

theorem zeroP_formatP : zeroP (op ++ x ++ y ++ 0#3 ++ BitVec.ofBool v) = 0 := by
  rw [zeroP, BitVec.extractLsb'_append_eq_of_le (by decide), BitVec.extractLsb'_append_eq_right]
  rfl

theorem valueBit_formatP : valueBit (op ++ x ++ y ++ 0#3 ++ BitVec.ofBool v) = v :=
  (BitVec.getLsbD_append ..).trans (by simp)

end formatP

theorem decode_setpx (x y : IndexField) (v : Bit) :
    decode (0x1#4 ++ x ++ y ++ 0#3 ++ BitVec.ofBool v) = .ok (.setpx x y v) := by
  rw [decode_eq_ok, opField_formatP, zeroP_formatP, indexHi_formatP, indexLo_formatP, valueBit_formatP]
  simp

theorem opField_formatB (op k : BitVec 4) (b : Byte) : opField (op ++ k ++ b) = op := by
  rw [opField, BitVec.extractLsb'_append_eq_of_le (by decide), BitVec.extractLsb'_append_eq_left]

theorem indexHi_formatB (op k : BitVec 4) (b : Byte) : indexHi (op ++ k ++ b) = k := by
  rw [indexHi, BitVec.extractLsb'_append_eq_of_le (by decide), BitVec.extractLsb'_append_eq_right]

theorem lowByte_formatB (op k : BitVec 4) (b : Byte) : lowByte (op ++ k ++ b) = b :=
  BitVec.extractLsb'_append_eq_right

theorem decode_ldrow (k : IndexField) (b : Byte) : decode (0x5#4 ++ k ++ b) = .ok (.ldrow k b) := by
  rw [decode_eq_ok, opField_formatB, indexHi_formatB, lowByte_formatB]
  simp

end Sys2Proof

namespace Sys2Proof.Machine

/-! ### What the commands write (rules R130 to R135) -/

/-- A row whose pixels are the bits of a byte is packed into that byte (rules R43, R135). -/
theorem State.packedRow_eq_of_pixel {s : State} {k : Fin 8} {b : Byte}
    (h : ∀ i : Fin 8, s.pixel i k = b.getLsbD i) : s.packedRow k = b :=
  BitVec.eq_of_getLsbD_eq fun i hi => (s.getLsbD_packedRow k ⟨i, hi⟩).trans (h ⟨i, hi⟩)

/-- SETPX writes a buffer that differs at the pixel it names alone, if there is one (rules R130, R131). -/
theorem exec_setpx (x y : IndexField) (v : Bit) (s : State) :
    ∃ g, exec (.setpx x y v) s = .next (s.setPb g).noResponse ∧ ∀ i k : Fin 8,
      (s.setPb g).pixel i k = if i.val = x.toNat ∧ k.val = y.toNat then v else s.pixel i k := by
  simp only [exec, execSetpx]
  rcases pixelIndex_cases x with ⟨i', hi, hx⟩ | ⟨hi, hx⟩
  · rcases pixelIndex_cases y with ⟨k', hk, hy⟩ | ⟨hk, hy⟩ <;> simp only [hi, hk]
    · refine ⟨_, rfl, fun i k => (s.pixel_setPixel i' k' i k v).trans ?_⟩
      simp only [Fin.ext_iff, hx, hy, eq_comm]
    · exact ⟨s.pb, rfl, fun i k => (if_neg (by omega)).symm⟩
  · simp only [hi]
    exact ⟨s.pb, rfl, fun i k => (if_neg (by omega)).symm⟩

/-- LDROW writes a buffer that differs in the display row it names alone, if there is one (rule R135). -/
theorem exec_ldrow (k : IndexField) (b : Byte) (s : State) :
    ∃ g, exec (.ldrow k b) s = .next (s.setPb g).noResponse ∧ ∀ i j : Fin 8,
      (s.setPb g).pixel i j = if j.val = k.toNat then b.getLsbD i else s.pixel i j := by
  simp only [exec, execLdrow]
  rcases pixelIndex_cases k with ⟨k', hk, hval⟩ | ⟨hk, hge⟩ <;> simp only [hk]
  · refine ⟨(s.setPixelRow k' b).pb, by rw [← State.setPixelRow_frame], fun i j => ?_⟩
    rw [← State.setPixelRow_frame, State.pixel_setPixelRow, ← hval]
    simp only [Fin.ext_iff, eq_comm]
  · exact ⟨s.pb, rfl, fun i j => (if_neg (by omega)).symm⟩

/-- Settles O49: `exec_setpx`; with a coordinate that names no pixel every cell is the old one. -/
theorem setpxWritesOnePixel : Obligations.SetpxWritesOnePixel := by
  intro x y v s
  obtain ⟨g, hx, hpixel⟩ := exec_setpx x y v s
  refine ⟨decode_setpx x y v, _, hx, rfl, hpixel, fun hge => ?_⟩
  apply State.pb_eq_of_pixel (s := s.setPb g)
  intro i k
  rw [hpixel, if_neg (by omega)]

/-- Settles O50: the eight writes of COMMIT, each the packed row at its address. -/
theorem commitPacksThePixelBuffer : Obligations.CommitPacksThePixelBuffer := by
  refine ⟨rfl, fun s => ⟨_, execCommit_eq s, rfl, fun i k => ?_, fun a => s.read_commitRows_past⟩⟩
  rw [State.memRead_noResponse, State.memRead_commitRows, State.getLsbD_packedRow]

/-- Settles O53: `exec_ldrow`; a COMMIT packs the row written, whose pixels are the bits of `b`, into `b`. -/
theorem ldrowWritesOneDisplayRow : Obligations.LdrowWritesOneDisplayRow := by
  intro k b s
  obtain ⟨g, hx, hpixel⟩ := exec_ldrow k b s
  refine ⟨decode_ldrow k b, _, hx, rfl, hpixel, fun hge => ?outside, _, execCommit_eq _, fun j hj => ?committed⟩
  case outside =>
    apply State.pb_eq_of_pixel (s := s.setPb g)
    intro i j
    rw [hpixel, if_neg (by omega)]
  case committed =>
    rw [State.memRead_noResponse, State.memRead_commitRows]
    apply State.packedRow_eq_of_pixel
    intro i
    rw [State.pixel_noResponse, hpixel, if_pos hj]

/-- Settles O52: both commands are the write of all 64 cells. -/
theorem clrallAndFillallSetEveryPixel : Obligations.ClrallAndFillallSetEveryPixel :=
  ⟨rfl, rfl, fun s => ⟨⟨_, rfl, rfl, s.pixel_setAllPixels false⟩, ⟨_, rfl, rfl, s.pixel_setAllPixels true⟩⟩⟩

/-! ### Who writes CF (rule R139) -/

/-- No command but COMMIT writes CF (rules R34, R139). -/
theorem exec_cf {i : Instr} {s t : State} (h : exec i s = .next t) : t.cf = s.cf ∨ i = .commit := by
  obtain ⟨_, _, _, _, _, _, _, hx, -, hcf, -⟩ := exec_cases i s
  cases hx.symm.trans h
  exact hcf.imp_right And.left

/-- Every step but a COMMIT and a reset leaves CF (rule R139). -/
theorem stepWith_cf {c : Config} {s t : State} (h : stepWith c s = .next t) : t.cf = s.cf ∨
    (∃ w es, s.events = .cmd w :: es ∧ decode w = .ok .commit) ∨ ∃ a es, s.events = .reset a :: es := by
  rcases stepWith_cases c s with ⟨-, he⟩ | ⟨es, -, he⟩ | ⟨w, i, es, hev, hd, he⟩ | ⟨w, why, es, -, -, he⟩ |
    ⟨w, es, -, he⟩ | ⟨k, v, es, -, he⟩ | ⟨a, es, -, he⟩ | ⟨a, es, hev, he⟩ <;> rw [he] at h
  · cases h; exact .inl rfl
  · cases h; exact .inl (State.tick_cf c _)
  · rcases exec_cf h with hcf | rfl
    · exact .inl hcf
    · exact .inr (.inl ⟨w, es, hev, hd⟩)
  · cases h
  · cases h; exact .inl (State.tick_cf c _)
  · cases h; exact .inl rfl
  · cases h; exact .inl rfl
  · exact .inr (.inr ⟨a, es, hev⟩)

/-! ### The scan reads nothing but the scan (rules R13, R139) -/

namespace SameScan

variable {s t : State} (c : Config)

/-- A write of PB and of the response is outside the scan. -/
theorem setPb_noResponse (s : State) (g : Grid) : SameScan s (s.setPb g).noResponse :=
  ⟨rfl, rfl, rfl, rfl, rfl, rfl, rfl, rfl, rfl, rfl⟩

/-- The next TICK makes the same pin writes: it reads the counters, the row and its byte in CF (rules R90, R115). -/
theorem tickWrites (h : SameScan s t) : t.tickWrites c = s.tickWrites c := by
  simp only [State.tickWrites, State.memRead, h.cf, h.ari, h.arm, h.tsra, h.rp]

/-- One TICK keeps two scans the same: both advance or neither does, and then with the same writes. -/
theorem tick (h : SameScan s t) : SameScan (s.tick c) (t.tick c) := by
  have hadvances : t.advances = s.advances := by rw [State.advances, State.advances, h.tsra, h.rp]
  obtain ⟨hpins, hchips⟩ := State.pinWrites_wire (s.tickWrites c) h.pins h.chips
  constructor
  case pins => rw [(t.tick_wire c).1, (s.tick_wire c).1, h.tickWrites, hpins]
  case chips => rw [(t.tick_wire c).2, (s.tick_wire c).2, h.tickWrites, hchips]
  case pinTrace => rw [State.tick_pinTrace_writes, State.tick_pinTrace_writes, h.tickWrites, h.pinTrace]
  all_goals simp [State.countNext, State.periodNext, State.memRead, hadvances, h.cf, h.ari, h.arm, h.tsra, h.rp, h.rpp,
    h.callLog]

theorem ticks (n : Nat) (h : SameScan s t) : SameScan (s.ticks c n) (t.ticks c n) := by
  induction n with
  | zero => exact h
  | succ n ih => rw [State.ticks_succ, State.ticks_succ]; exact ih.tick c

/-- What is lit is read from the pins and the chips (rule R88). -/
theorem lit (h : SameScan s t) (i k : Fin 8) : t.lit c i k = s.lit c i k := by
  rw [State.lit, State.lit, h.pins, h.chips]

end SameScan

/-- The commands of rule R139 write PB, have no response, and write nothing else. -/
theorem exec_pixel_command {i : Instr}
    (hi : (∃ x y v, i = .setpx x y v) ∨ (∃ k b, i = .ldrow k b) ∨ i = .clrall ∨ i = .fillall) (s : State) :
    ∃ g, exec i s = .next (s.setPb g).noResponse := by
  rcases hi with ⟨x, y, v, rfl⟩ | ⟨k, b, rfl⟩ | rfl | rfl
  · exact (exec_setpx x y v s).imp fun _ => And.left
  · exact (exec_ldrow k b s).imp fun _ => And.left
  · exact ⟨_, rfl⟩
  · exact ⟨_, rfl⟩

/-- Settles O55: what a step does to CF; and a write of PB leaves the scan the same, which every TICK keeps. -/
theorem onlyCommitWritesTheFrame : Obligations.OnlyCommitWritesTheFrame := by
  refine ⟨fun c s t h hcf => (stepWith_cf h).resolve_left hcf, fun i s t hi hx => ?_⟩
  obtain ⟨g, hg⟩ := exec_pixel_command hi s
  cases hg.symm.trans hx
  have hscan (c : Config) (n : Nat) := (SameScan.setPb_noResponse s g).ticks c n
  exact ⟨rfl, fun c n => ⟨hscan c n, (hscan c n).lit c⟩⟩

end Sys2Proof.Machine
end

section
/-! # 30_encoding.md: the round trips of the decoder and the encoder (O1, O2, O5) -/

namespace Sys2Proof

/-- Settles O1: each operand format by the decoder's fields of its word; the four words of format Z are constants. -/
theorem decodeOfEncodeIsTheCommand : Obligations.DecodeOfEncodeIsTheCommand := by
  intro i
  cases i with
  | setpx x y v => exact decode_setpx x y v
  | ldrow k b => exact decode_ldrow k b
  | waspr ch => exact decode_waspr ch
  | isheld ch => exact decode_isheld ch
  | setthr t => exact decode_setthr t
  | setrp p => exact decode_setrp p
  | commit | clrall | fillall | alevel => rfl

/-! ### A word is its fields, high bits first (rules R63 to R67) -/

/-- Adjacent fields make one field (core's lemma, the fields named by where they start). -/
theorem append_adjacent (w : CmdWord) (mid lo m n : Nat) (h : mid = lo + n) :
    w.extractLsb' mid m ++ w.extractLsb' lo n = w.extractLsb' lo (m + n) :=
  BitVec.extractLsb'_append_extractLsb'_eq_extractLsb' h

/-- Formats I and Z: the opcode and the low 12 bits. -/
theorem eq_append_of_lowImm {w : CmdWord} {op : BitVec 4} {x : BitVec 12} (hop : opField w = op) (hx : lowImm w = x) :
    op ++ x = w := by
  subst hop hx
  exact (append_adjacent w 12 0 4 12 rfl).trans BitVec.extractLsb'_eq_self

/-- Formats B and C: the opcode, the index and the low byte. -/
theorem eq_append_of_lowByte {w : CmdWord} {op : BitVec 4} {b : Byte} (hop : opField w = op) (hb : lowByte w = b) :
    op ++ indexHi w ++ b = w := by
  subst hop hb
  rw [opField, indexHi, lowByte, append_adjacent w 12 8 4 4 rfl]
  exact (append_adjacent w 8 0 8 8 rfl).trans BitVec.extractLsb'_eq_self

theorem ofBool_valueBit (w : CmdWord) : BitVec.ofBool (valueBit w) = w.extractLsb' 0 1 := by
  apply BitVec.eq_of_getLsbD_eq
  intro i hi
  obtain rfl : i = 0 := by omega
  simp [valueBit]

/-- Format P: the opcode, both indices, the must-be-zero bits and the value bit. -/
theorem eq_append_of_zeroP {w : CmdWord} {op : BitVec 4} {z : BitVec 3} (hop : opField w = op) (hz : zeroP w = z) :
    op ++ indexHi w ++ indexLo w ++ z ++ BitVec.ofBool (valueBit w) = w := by
  subst hop hz
  rw [ofBool_valueBit, opField, indexHi, indexLo, zeroP, append_adjacent w 12 8 4 4 rfl,
    append_adjacent w 8 4 8 4 rfl, append_adjacent w 4 1 12 3 rfl]
  exact (append_adjacent w 1 0 15 1 rfl).trans BitVec.extractLsb'_eq_self

/-- Settles O2: in each of the ten ways to decode, the word's fields are those the encoder places. -/
theorem decodedWordIsTheCommandsWord : Obligations.DecodedWordIsTheCommandsWord := by
  intro w i h
  rcases (decode_eq_ok w i).mp h with ⟨hop, hz, rfl⟩ | ⟨hop, hz, rfl⟩ | ⟨hop, hz, rfl⟩ | ⟨hop, hz, rfl⟩ | ⟨hop, rfl⟩ |
    ⟨hop, hz, rfl⟩ | ⟨hop, hz, rfl⟩ | ⟨hop, hz, rfl⟩ | ⟨hop, rfl⟩ | ⟨hop, rfl⟩
  · exact eq_append_of_zeroP hop hz
  · exact eq_append_of_lowImm hop hz
  · exact eq_append_of_lowImm hop hz
  · exact eq_append_of_lowImm hop hz
  · exact eq_append_of_lowByte hop rfl
  · exact eq_append_of_lowByte hop hz
  · exact eq_append_of_lowByte hop hz
  · exact eq_append_of_lowImm hop hz
  · exact eq_append_of_lowImm hop rfl
  · exact eq_append_of_lowImm hop rfl

/-- Settles O5: the decoder run on each word of the table. -/
theorem specWordsDecodeAsWritten : Obligations.SpecWordsDecodeAsWritten := by
  refine ⟨?_, ?_, ?_, ?_, ?_, ?_, ?_, ?_, ?_, ?_⟩ <;> rfl

end Sys2Proof
end

section
/-! # 00_scope.md and 10_state.md: what a step does, and the invariant that every step keeps (O7 to O10, O13, O14) -/

namespace Sys2Proof.Machine

/-! ### One step that gives a next state, by its event (rules R2, R4, R170) -/

/-- The next states of a step: those of `stepWith_cases`, with the TICK alone and the TICK before a command as one
case. -/
inductive StepsTo (c : Config) (s : State) : State → Prop
  /-- No event waits. -/
  | idle (hev : s.events = []) : StepsTo c s s
  /-- A TICK; the events `es` are left, a command that came with the TICK first. -/
  | tick (es : List Event)
      (hev : s.events = .tick :: es ∨ ∃ w es', s.events = .tickAndCmd w :: es' ∧ es = .cmd w :: es') :
      StepsTo c s ((s.tick c).setEvents es)
  /-- A command. -/
  | command (w : CmdWord) (i : Instr) (es : List Event) (t : State) (hev : s.events = .cmd w :: es)
      (hd : decode w = .ok i) (hx : exec i (s.setEvents es) = .next t) : StepsTo c s t
  /-- A change of a button level. -/
  | btn (k : Fin 5) (v : Bit) (es : List Event) (hev : s.events = .btn k v :: es) :
      StepsTo c s ((s.setEvents es).setBtn k v)
  /-- A change of the analog reading. -/
  | adc (a : Reading) (es : List Event) (hev : s.events = .adc a :: es) : StepsTo c s ((s.setEvents es).setAdc a)
  /-- A reset. -/
  | reset (a : Abandoned) (es : List Event) (hev : s.events = .reset a :: es) :
      StepsTo c s (((s.setEvents es).abandon c a).resetBlock c)

theorem State.setEvents_setEvents (s : State) (es es' : List Event) :
    (s.setEvents es).setEvents es' = s.setEvents es' := rfl

theorem stepsTo_of_stepWith {c : Config} {s t : State} (h : stepWith c s = .next t) : StepsTo c s t := by
  rcases stepWith_cases c s with ⟨hev, he⟩ | ⟨es, hev, he⟩ | ⟨w, i, es, hev, hd, he⟩ | ⟨w, why, es, -, -, he⟩ |
    ⟨w, es, hev, he⟩ | ⟨k, v, es, hev, he⟩ | ⟨a, es, hev, he⟩ | ⟨a, es, hev, he⟩ <;> rw [he] at h
  · cases h; exact .idle hev
  · cases h; rw [tick_setEvents]; exact .tick es (.inl hev)
  · exact .command w i es t hev hd h
  · cases h
  · cases h; rw [tick_setEvents, State.setEvents_setEvents]; exact .tick (.cmd w :: es) (.inr ⟨w, es, hev, rfl⟩)
  · cases h; exact .btn k v es hev
  · cases h; exact .adc a es hev
  · cases h; exact .reset a es hev

/-- A reset keeps the events that wait (log entry 11). -/
theorem State.resetBlock_abandon_events (c : Config) (a : Abandoned) (s : State) :
    ((s.abandon c a).resetBlock c).events = s.events := by
  rw [resetBlock_abandon]
  rfl

/-! ### The step (rules R2, R4, R62) -/

theorem stepWith_command (c : Config) {s : State} {w : CmdWord} {es : List Event} {i : Instr}
    (hev : s.events = .cmd w :: es) (hd : decode w = .ok i) : stepWith c s = exec i (s.setEvents es) := by
  simp [stepWith, hev, perform, runWord, hd]

/-- Settles O7: the word decodes, and a command's own word decodes to it. -/
theorem stepRunsTheDecodedCommand : Obligations.StepRunsTheDecodedCommand :=
  ⟨fun _ _ _ _ hev hd => stepWith_command Config.lmrs hev hd,
    fun _ _ i hev => stepWith_command Config.lmrs hev (decodeOfEncodeIsTheCommand i)⟩

theorem decode_of_decodeTableWord {w : Nat} {i : Instr} (h : decodeTableWord 16 w = some i) :
    decode (BitVec.ofNat 16 (w % 2 ^ 16)) = .ok i := by
  rw [decodeTableWord, if_pos (Nat.le_refl 16)] at h
  cases hd : decode (BitVec.ofNat 16 (w % 2 ^ 16)) with
  | ok j => rw [hd] at h; cases h; rfl
  | error why => rw [hd] at h; cases h

/-- Settles O8: the placed word is the next event, and taking it leaves the state it was placed in. -/
theorem placedTableWordRunsNext : Obligations.PlacedTableWordRunsNext := by
  intro s w i h
  exact stepWith_command Config.lmrs (s := s.withFetchWord 16 w) rfl (decode_of_decodeTableWord h)

/-- Settles O9: the step on each event that is no word and no reset. -/
theorem stepPerformsTheNextEvent : Obligations.StepPerformsTheNextEvent := by
  intro s es
  refine ⟨fun hev => ?_, fun w hev => ?_, fun k v hev => ?_, fun a hev => ?_, fun hev => ?_⟩ <;>
    simp only [step, stepWith, hev] <;> rfl

/-- A host command always ends (rules R5, R150). -/
theorem exec_ends (i : Instr) (s : State) : ∃ t, exec i s = .next t := by
  obtain ⟨_, _, _, _, _, _, _, hx, -⟩ := exec_cases i s
  exact ⟨_, hx⟩

/-- A step that is no next state is the refusal of a reserved word (rules R5, R72). -/
theorem stepWith_ends_or_reserved (c : Config) (s : State) : (∃ t, stepWith c s = .next t) ∨
    ∃ w es why, s.events = .cmd w :: es ∧ decode w = .error why ∧ stepWith c s = .refused (.reservedWord w why) := by
  rcases stepWith_cases c s with ⟨-, he⟩ | ⟨es, -, he⟩ | ⟨w, i, es, -, -, he⟩ | ⟨w, why, es, hev, hd, he⟩ |
    ⟨w, es, -, he⟩ | ⟨k, v, es, -, he⟩ | ⟨a, es, -, he⟩ | ⟨a, es, -, he⟩
  case inr.inr.inl => exact .inl (he ▸ exec_ends i _)
  case inr.inr.inr.inl => exact .inr ⟨w, es, why, hev, hd, he⟩
  all_goals exact .inl ⟨_, he⟩

/-- Settles O10: the step ends or meets a reserved word, which the hardware's step ignores. -/
theorem onlyReservedWordsStop : Obligations.OnlyReservedWordsStop := by
  refine ⟨fun c s => ?_, fun c s => ?_⟩ <;>
    rcases stepWith_ends_or_reserved c s with ⟨t, he⟩ | ⟨w, es, why, hev, hd, he⟩
  · exact .inl ⟨t, he⟩
  · exact .inr ⟨w, es, why, hev, (isReserved_iff_decode_error w).mpr ⟨why, hd⟩, he⟩
  · exact ⟨t, by rw [hardwareStepWith, he]⟩
  · exact ⟨_, hardwareStepWith_of_decode_error c hev hd⟩

/-! ### The invariant (rules R16, R17, R19, R22, R81, R84) -/

theorem period_pos {p : Period} (h : p ≠ 0) : 0 < p := BitVec.lt_def.mpr ((one_le_toNat_iff p).mpr h)

namespace State.Inv

variable {s t : State} {c : Config}

/-- The invariant speaks of no event that waits and of no input. -/
theorem setEvents (h : s.Inv) (es : List Event) : (s.setEvents es).Inv := { h with }

theorem setBtn (h : s.Inv) (k : Fin 5) (v : Bit) : (s.setBtn k v).Inv := { h with }

theorem setAdc (h : s.Inv) (a : Reading) : (s.setAdc a).Inv := { h with }

/-- Every legal configuration resets into the invariant (rules R19, R33). -/
theorem resetBlock (hc : c.wf) (s : State) : (s.resetBlock c).Inv where
  maskOneHot := oneHot_maskOf 0
  maskIsRow := rfl
  tsraBelow := period_pos hc
  rpPos := hc
  rppPos := hc
  latchLow := rfl
  clkRowLow := rfl
  frameWf := wf_reset

/-- A TICK that advances goes to the next row and starts its period at 0 (rules R17, R115). -/
theorem tick_of_advances (h : s.Inv) (ha : s.advances = true) : (s.tick c).Inv where
  maskOneHot := by
    rw [tick_arm, if_pos ha, h.maskIsRow, ror8_maskOf]
    exact oneHot_maskOf _
  maskIsRow := by rw [tick_arm, tick_ari, if_pos ha, if_pos ha, h.maskIsRow, ror8_maskOf]
  tsraBelow := by simpa [countNext, periodNext, ha] using period_pos h.rppPos
  rpPos := by simpa [periodNext, ha] using h.rppPos
  rppPos := by simpa using h.rppPos
  latchLow := by simp [advanced_pins c s h.latchLow h.clkRowLow, ha]
  clkRowLow := by simp [advanced_pins c s h.latchLow h.clkRowLow, ha]
  frameWf := by simpa using h.frameWf

/-- A TICK that does not advance counts TSRA, which stays below RP (rules R19, R115). -/
theorem tick_of_not_advances (h : s.Inv) (ha : ¬s.advances = true) : (s.tick c).Inv where
  maskOneHot := by simpa [ha] using h.maskOneHot
  maskIsRow := by simpa [ha] using h.maskIsRow
  tsraBelow := by
    have hbelow := h.tsraBelow
    have hnot := mt (advances_iff hbelow).mpr ha
    simp only [tick_tsra, tick_rp, countNext, periodNext, if_neg ha]
    rw [BitVec.lt_def] at hbelow ⊢
    rw [toNat_tsra_add_one h.tsraBelow]
    omega
  rpPos := by simpa [periodNext, ha] using h.rpPos
  rppPos := by simpa using h.rppPos
  latchLow := by simpa [advanced_pins c s h.latchLow h.clkRowLow, ha] using h.latchLow
  clkRowLow := by simpa [advanced_pins c s h.latchLow h.clkRowLow, ha] using h.clkRowLow
  frameWf := by simpa using h.frameWf

theorem tick (c : Config) (h : s.Inv) : (s.tick c).Inv := by
  by_cases ha : s.advances
  · exact h.tick_of_advances ha
  · exact h.tick_of_not_advances ha

theorem ticks (c : Config) (n : Nat) (h : s.Inv) : (s.ticks c n).Inv := by
  induction n with
  | zero => exact h
  | succ n ih => rw [ticks_succ]; exact ih.tick c

/-- Of what the invariant speaks of, a command writes CF, with packed rows, and RPP, with a clamped period (rules R34,
R121, R132). -/
theorem exec {i : Instr} (h : s.Inv) (hx : exec i s = .next t) : t.Inv := by
  obtain ⟨_, m, _, _, p, _, _, he, -, hcf, -, -, hrpp⟩ := exec_cases i s
  cases he.symm.trans hx
  have hm : Memory.wf m = true := by
    rcases hcf with rfl | ⟨-, rfl⟩
    · exact h.frameWf
    · exact wf_commitRows h.frameWf
  have hp : p ≠ 0 := by
    rcases hrpp with rfl | ⟨q, -, rfl⟩
    · exact h.rppPos
    · exact clampPeriod_ne_zero q
  exact { h with rppPos := hp, frameWf := hm }

theorem stepWith (hc : c.wf) (h : s.Inv) (hs : stepWith c s = .next t) : t.Inv := by
  cases stepsTo_of_stepWith hs with
  | idle => exact h
  | tick es => exact (h.tick c).setEvents es
  | command w i es t hev hd hx => exact (h.setEvents es).exec hx
  | btn k v es => exact (h.setEvents es).setBtn k v
  | adc a es => exact (h.setEvents es).setAdc a
  | reset a es => exact resetBlock hc _

end State.Inv

/-- Settles O14: each event by what it does to the invariant; the spec's configuration is one of the legal ones. -/
theorem everyStepKeepsTheInvariant : Obligations.EveryStepKeepsTheInvariant :=
  have hlmrs : Config.lmrs.wf := by decide
  ⟨fun _ _ h hs => h.stepWith hlmrs hs, fun _ _ _ hc h hs => h.stepWith hc hs⟩

/-- Settles O13: power-on is a reset under the spec's configuration, which is legal. -/
theorem resetMeetsTheInvariant : Obligations.ResetMeetsTheInvariant :=
  have hlmrs : Config.lmrs.wf := by decide
  ⟨State.Inv.resetBlock hlmrs State.reset, fun _ s hc => State.Inv.resetBlock hc s⟩

end Sys2Proof.Machine
end

section
/-! # 10_state.md: who writes what, and what the host reads (O12, O16, O18) -/

namespace Sys2Proof.Machine

/-! ### The frame of a command and of a TICK that does not advance (rule R34) -/

theorem exec_hostFrame {i : Instr} {s t : State} (h : exec i s = .next t) : HostFrame s t := by
  obtain ⟨_, _, _, _, _, _, _, hx, -⟩ := exec_cases i s
  cases hx.symm.trans h
  constructor <;> rfl

theorem exec_ath {i : Instr} {s t : State} (h : exec i s = .next t) : t.ath = s.ath ∨ i = .setthr t.ath := by
  obtain ⟨_, _, _, _, _, _, _, hx, -, -, -, hath, -⟩ := exec_cases i s
  cases hx.symm.trans h
  exact hath

theorem exec_rpp {i : Instr} {s t : State} (h : exec i s = .next t) : t.rpp = s.rpp ∨ ∃ p, i = .setrp p := by
  obtain ⟨_, _, _, _, _, _, _, hx, -, -, -, -, hrpp⟩ := exec_cases i s
  cases hx.symm.trans h
  exact hrpp.imp_right fun ⟨p, hp, _⟩ => ⟨p, hp⟩

/-- Only the four pixel commands write PB (rules R34, R139). -/
theorem exec_pb {i : Instr} {s t : State} (h : exec i s = .next t) : t.pb = s.pb ∨
    (∃ x y v, i = .setpx x y v) ∨ i = .clrall ∨ i = .fillall ∨ ∃ k b, i = .ldrow k b := by
  obtain ⟨_, _, _, _, _, _, _, hx, hpb, -⟩ := exec_cases i s
  cases hx.symm.trans h
  exact hpb

/-- A COMMIT writes no byte past the frame, and no other command writes one in it (rules R34, R132). -/
theorem exec_read_cf {i : Instr} {s t : State} (h : exec i s = .next t) (a : Nat) :
    Memory.read t.cf a = Memory.read s.cf a ∨ i = .commit ∧ a < 8 := by
  rcases exec_cf h with hcf | rfl
  · exact .inl (by rw [hcf])
  · by_cases ha : a < 8
    · exact .inr ⟨rfl, ha⟩
    · cases (execCommit_eq s).symm.trans h
      rw [State.noResponse_cf]
      exact .inl (s.read_commitRows_past (Nat.not_lt.mp ha))

namespace State

/-- Of what the scan reads and shows, a TICK that does not advance changes TSRA alone, which it counts (rule R115). -/
theorem sameScan_tick_of_not_advances (c : Config) {s : State} (h : ¬s.advances = true) :
    SameScan (s.setTsra (s.tsra + 1)) (s.tick c) := by
  constructor <;> simp [tick_eq, tickWrites_eq, countNext, periodNext, h]

/-- A TICK that does not sample leaves the sampler (rule R115). -/
theorem tick_sampler_of_not_samples (c : Config) {s : State} (h : ¬s.samples = true) :
    (s.tick c).raw = s.raw ∧ (s.tick c).asamp = s.asamp ∧ (s.tick c).le = s.le := by
  simp [tick_eq, h]

/-- Nothing is lit with the outputs disabled (rule R88). -/
theorem lit_of_disabled {c : Config} {s : State} (h : s.pins.oeN = c.oeDisableLevel) (i k : Fin 8) :
    s.lit c i k = false := by
  simp [lit, h]

end State

/-- Settles O16: the command's frame register by register; the TICK's by its two checks. -/
theorem eachRegisterHasOneWritingContext : Obligations.EachRegisterHasOneWritingContext := by
  refine ⟨fun i s t hx => ⟨exec_hostFrame hx, (exec_pb hx).resolve_left, fun a => (exec_read_cf hx a).resolve_left,
    (exec_cf hx).resolve_left, (exec_rpp hx).resolve_left, fun h => ⟨_, (exec_ath hx).resolve_left h⟩,
    fun k hk => ?flag⟩, fun c s hinv => ⟨s.tick_frame c, fun hrp => ?still, fun hhalf => ?quiet, fun k hk => ?sticky⟩⟩
  case flag =>
    have hle := exec_le_iff hx k
    by_cases hclear : ∃ ch, i = .waspr ch ∧ ch.toNat = k.val
    · exact ⟨by simpa [hclear] using hle, hclear⟩
    · rw [and_iff_left hclear] at hle
      exact absurd (Bool.eq_iff_iff.mpr hle) hk
  case still =>
    have hscan := State.sameScan_tick_of_not_advances c (mt (State.advances_iff hinv.tsraBelow).mp hrp)
    exact ⟨hscan.ari, hscan.arm, hscan.rp, hscan.pins, hscan.pinTrace, hscan.callLog, hscan.chips⟩
  case quiet => exact s.tick_sampler_of_not_samples c (mt (s.samples_iff_half c).mp hhalf)
  case sticky => exact (tick_le_iff c s k).mpr (.inl hk)

/-! ### A reset keeps the display dark (rules R88, R171) -/

/-- A step that enables the outputs is a TICK that advances (rules R80, R115). -/
theorem advances_of_enables {c : Config} {s t : State} (h : stepWith c s = .next t)
    (hs : s.pins.oeN = c.oeDisableLevel) (ht : t.pins.oeN ≠ c.oeDisableLevel) :
    s.advances = true ∧ t.callLog = (s.tick c).callLog := by
  cases stepsTo_of_stepWith h with
  | tick es =>
    refine ⟨?_, State.setEvents_callLog _ _⟩
    by_contra ha
    rw [State.setEvents_pins, (State.sameScan_tick_of_not_advances c ha).pins] at ht
    exact ht hs
  | command w i es t hev hd hx => exact absurd ((congrArg Pins.oeN (exec_hostFrame hx).pins).trans hs) ht
  | reset a es => exact absurd rfl ht
  | idle | btn | adc => exact absurd hs ht

/-- Settles O12: the reset keeps what is outside the block and disables the outputs; a row advance logs two calls. -/
theorem resetLeavesTheDisplayDark : Obligations.ResetLeavesTheDisplayDark := by
  refine ⟨fun c s => ⟨rfl, rfl, rfl, rfl, rfl, rfl, State.lit_of_disabled rfl⟩, fun c s t _ hs hx ht => ?_⟩
  obtain ⟨hadv, hlog⟩ := advances_of_enables hx hs ht
  simp [hlog, hadv]

/-! ### What the host reads (rules R12, R70) -/

/-- The response of a command, from the latched events, the button levels and the reading (rules R104 to R108). -/
def answer (le : Vector Bit 6) (btn : Vector Bit 5) (adc : Reading) : Instr → Option RespWord
  | .waspr ch => some ((channel ch).elim 0 fun k => zext16Bit le[k])
  | .isheld ch => some ((digitalChannel ch).elim 0 fun k => zext16Bit (btn[k] == false))
  | .alevel => some (zext16Reading adc)
  | .setpx _ _ _ | .commit | .clrall | .fillall | .ldrow _ _ | .setthr _ | .setrp _ => none

/-- A command answers that and adds it to the responses. -/
theorem exec_answer {i : Instr} {s t : State} (h : exec i s = .next t) :
    t.resp = answer s.le s.btn s.adc i ∧ t.responses = s.responses ++ (answer s.le s.btn s.adc i).toList := by
  cases i with
  | waspr ch =>
    simp only [exec, execWaspr] at h
    cases hc : channel ch <;> rw [hc] at h <;> cases h <;> simp [answer, hc]
  | isheld ch =>
    simp only [exec, execIsheld] at h
    cases hc : digitalChannel ch <;> rw [hc] at h <;> cases h <;> simp [answer, hc]
  | alevel => cases h; exact ⟨rfl, rfl⟩
  | setpx x y v =>
    obtain ⟨g, hg, -⟩ := exec_setpx x y v s
    cases hg.symm.trans h
    simp [answer]
  | ldrow k b =>
    obtain ⟨g, hg, -⟩ := exec_ldrow k b s
    cases hg.symm.trans h
    simp [answer]
  | commit =>
    cases (execCommit_eq s).symm.trans h
    rw [State.noResponse_resp, State.noResponse_responses, State.commitRows_frame]
    simp [answer]
  | clrall | fillall | setthr | setrp => cases h; exact ⟨rfl, (List.append_nil _).symm⟩

/-- Settles O18: the answer is a function of the three values. -/
theorem hostReadsThreeValuesOnly : Obligations.HostReadsThreeValuesOnly := by
  intro i s s' t t' hle hbtn hadc hx hx'
  obtain ⟨hresp, hresponses⟩ := exec_answer hx
  obtain ⟨hresp', hresponses'⟩ := exec_answer hx'
  rw [← hle, ← hbtn, ← hadc] at hresp' hresponses'
  exact ⟨hresp.trans hresp'.symm, _, hresponses, hresponses'⟩

end Sys2Proof.Machine
end

section
/-! # 20_memory.md: the frame store, and when a host write is seen (O19, O20) -/

namespace Sys2Proof.Machine

/-- Settles O19: the store's read after a write, and its canonical form. -/
theorem frameStoreReadsWhatWasWritten : Obligations.FrameStoreReadsWhatWasWritten := by
  refine fun s k v => ⟨?same, fun j hj => ?other, rfl, fun hwf => State.wf_memWrite hwf k v⟩
  case same => rw [State.memRead_memWrite, if_pos rfl]
  case other => rw [State.memRead_memWrite, if_neg hj.symm]

/-! ### The events that wait after a step -/

/-- A step adds no event: what waits after it waited before, or is the command that came with the TICK of the step
(rules R4, R155). -/
theorem mem_events_of_stepWith {c : Config} {s t : State} (h : stepWith c s = .next t) {e : Event}
    (he : e ∈ t.events) : e ∈ s.events ∨ ∃ w, e = .cmd w ∧ .tickAndCmd w ∈ s.events := by
  cases stepsTo_of_stepWith h with
  | idle => exact .inl he
  | tick es hev =>
    rcases hev with hev | ⟨w, es', hev, rfl⟩
    · exact .inl (hev ▸ List.mem_cons_of_mem _ he)
    · rcases List.mem_cons.mp he with rfl | he
      · exact .inr ⟨w, rfl, hev ▸ List.mem_cons_self⟩
      · exact .inl (hev ▸ List.mem_cons_of_mem _ he)
  | command w i es t hev hd hx =>
    rw [exec_events hx] at he
    exact .inl (hev ▸ List.mem_cons_of_mem _ he)
  | btn k v es hev => exact .inl (hev ▸ List.mem_cons_of_mem _ he)
  | adc a es hev => exact .inl (hev ▸ List.mem_cons_of_mem _ he)
  | reset a es hev =>
    rw [State.resetBlock_abandon_events] at he
    exact .inl (hev ▸ List.mem_cons_of_mem _ he)

/-- No command of the kind `p` waits, and no reset. -/
def NoneWaits (p : Instr → Prop) (s : State) : Prop :=
  (∀ w, .cmd w ∈ s.events ∨ .tickAndCmd w ∈ s.events → ∀ i, p i → decode w ≠ .ok i) ∧ ∀ a, .reset a ∉ s.events

theorem stepWith_keeps_noneWaits {c : Config} {p : Instr → Prop} {s t : State} (hs : NoneWaits p s)
    (h : stepWith c s = .next t) : NoneWaits p t := by
  obtain ⟨hcmd, hreset⟩ := hs
  refine ⟨fun w hw => hcmd w ?_, fun a ha => ?_⟩
  · rcases hw with hw | hw <;> rcases mem_events_of_stepWith h hw with hmem | ⟨w', heq, hmem⟩
    · exact .inl hmem
    · cases heq
      exact .inr hmem
    · exact .inr hmem
    · cases heq
  · rcases mem_events_of_stepWith h ha with hmem | ⟨w, heq, -⟩
    · exact hreset a hmem
    · cases heq

/-- What only the commands of the kind `p` and a reset change, no run changes while none of them waits. -/
theorem runWith_keeps_value {α : Type} {c : Config} {p : Instr → Prop} (f : State → α)
    (hf : ∀ s t, stepWith c s = .next t → f t = f s ∨
      (∃ w es, s.events = .cmd w :: es ∧ ∃ i, p i ∧ decode w = .ok i) ∨ ∃ a es, s.events = .reset a :: es)
    {n : Nat} {s t : State} (hs : NoneWaits p s) (h : runWith c n s = .next t) : f t = f s := by
  refine (runWith_keeps c (fun u => NoneWaits p u ∧ f u = f s) ?_ n ⟨hs, rfl⟩ h).2
  rintro u v ⟨hu, hfu⟩ hstep
  refine ⟨stepWith_keeps_noneWaits hu hstep, ?_⟩
  obtain ⟨hcmd, hreset⟩ := hu
  rcases hf u v hstep with hfv | ⟨w, es, hev, i, hp, hd⟩ | ⟨a, es, hev⟩
  · exact hfv.trans hfu
  · exact absurd hd (hcmd w (.inl (hev ▸ List.mem_cons_self)) i hp)
  · exact absurd (hev ▸ List.mem_cons_self) (hreset a)

/-- Every step but a SETTHR and a reset leaves ATH (rule R34). -/
theorem stepWith_ath {c : Config} {s t : State} (h : stepWith c s = .next t) : t.ath = s.ath ∨
    (∃ w es, s.events = .cmd w :: es ∧ ∃ v, decode w = .ok (.setthr v)) ∨ ∃ a es, s.events = .reset a :: es := by
  cases stepsTo_of_stepWith h with
  | tick es => exact .inl ((State.setEvents_ath _ es).trans (State.tick_ath c s))
  | command w i es t hev hd hx =>
    rcases exec_ath hx with hath | rfl
    · exact .inl hath
    · exact .inr (.inl ⟨w, es, hev, _, hd⟩)
  | reset a es hev => exact .inr (.inr ⟨a, es, hev⟩)
  | idle | btn | adc => exact .inl rfl

/-- CF stays while no COMMIT and no reset waits (rule R54). -/
theorem runWith_cf {c : Config} {n : Nat} {s t : State} (hs : NoneWaits (· = .commit) s)
    (h : runWith c n s = .next t) : t.cf = s.cf := by
  refine runWith_keeps_value State.cf (fun u v hstep => ?_) hs h
  rcases stepWith_cf hstep with hcf | ⟨w, es, hev, hd⟩ | hreset
  · exact .inl hcf
  · exact .inr (.inl ⟨w, es, hev, _, rfl, hd⟩)
  · exact .inr (.inr hreset)

/-- ATH stays while no SETTHR and no reset waits (rule R55). -/
theorem runWith_ath {c : Config} {n : Nat} {s t : State} (hs : NoneWaits (fun i => ∃ v, i = .setthr v) s)
    (h : runWith c n s = .next t) : t.ath = s.ath := by
  refine runWith_keeps_value State.ath (fun u v hstep => ?_) hs h
  rcases stepWith_ath hstep with hath | ⟨w, es, hev, v', hd⟩ | hreset
  · exact .inl hath
  · exact .inr (.inl ⟨w, es, hev, _, ⟨v', rfl⟩, hd⟩)
  · exact .inr (.inr hreset)

/-! ### The next row advance and the next SAMPLE (rules R54, R55) -/

theorem State.advances_of_toNat {s : State} (h : s.tsra.toNat + 1 = s.rp.toNat) : s.advances = true := by
  rw [State.advances, decide_eq_true_iff]
  bv_omega

/-- Settles O20: CF and ATH stay as the COMMIT and the SETTHR left them, up to the TICK or SAMPLE that reads them. -/
theorem hostWritesAreSeenByTheNextTick : Obligations.HostWritesAreSeenByTheNextTick := by
  refine ⟨fun c s t u n hx hrun hcmd hreset hrp => ?frame, fun c v s t u n hx hrun hcmd hreset => ?threshold⟩
  case frame =>
    have hcf : u.cf = t.cf := runWith_cf ⟨fun w hw i hi => hi ▸ hcmd w hw, hreset⟩ hrun
    cases (execCommit_eq s).symm.trans hx
    rw [State.noResponse_cf] at hcf
    have hread : u.memRead (State.rowOf u.ari) = s.packedRow (State.rowOf u.ari) := by
      rw [← s.memRead_commitRows, State.memRead, hcf, State.memRead]
    refine ⟨s.packedRow (State.rowOf u.ari), ?_, fun i => s.getLsbD_packedRow _ i⟩
    rw [State.tick_callLog, if_pos (State.advances_of_toNat hrp), hread]
  case threshold =>
    have hath : u.ath = t.ath := runWith_ath ⟨fun w hw i ⟨v', hi⟩ => hi ▸ hcmd w hw v', hreset⟩ hrun
    cases hx
    rw [State.sample_le_analog, Bool.or_eq_true, riseReached_eq_true_iff, hath, State.noResponse_ath,
      State.setAth_ath]

end Sys2Proof.Machine
end

section
/-! # 40_serial_protocol.md: edge counts, the blanked outputs, and what the two chips receive (O22, O23, O25 to O27) -/

namespace Sys2Proof.Machine

/-! ### Edge counts (rules R81, R84) -/

/-- Settles O22: the writes counted one by one, from the LATCH level given. -/
theorem columnTransferEdgeCount : Obligations.ColumnTransferEdgeCount := by
  intro c b s hlatch
  refine ⟨rfl, ?clock, rfl, ?latch, congrArg State.pins (s.scol_eq c b)⟩
  case clock => simp [colFrame, octet, risingEdges, Pins.rises, Pins.get, Pins.set]
  case latch => simp [colFrame, octet, risingEdges, Pins.rises, Pins.get, Pins.set, hlatch]

/-- Settles O25: the writes counted one by one, from the CLK_ROW level given. -/
theorem rowTransferEdgeCount : Obligations.RowTransferEdgeCount := by
  intro b s hclk
  refine ⟨rfl, ?clock, rfl, rfl, ?latch, s.srow_pins b⟩
  case clock => simp [rowFrame, octet, risingEdges, Pins.rises, Pins.get, Pins.set, hclk]
  case latch => simp [rowFrame, octet, risingEdges, Pins.rises, Pins.get, Pins.set]

/-! ### One pin write and the chips (rules R86, R87) -/

/-- The chips after one pin write, register by register: each has one edge that writes it. -/
theorem State.pinWrite_chips_eq (s : State) (w : PinWrite) : (s.pinWrite w).chips =
    { csr := if w.pin = .clkCol ∧ s.pins.clkCol = false ∧ w.level = true then shiftIn s.pins.data s.chips.csr
        else s.chips.csr
      colOut := if w.pin = .latch ∧ s.pins.latch = false ∧ w.level = true then s.chips.csr else s.chips.colOut
      rsr := if w.pin = .clkRow ∧ s.pins.clkRow = false ∧ w.level = true then shiftIn s.pins.data s.chips.rsr
        else s.chips.rsr
      rowOut := if w.pin = .latch ∧ s.pins.latch = false ∧ w.level = true then s.chips.rsr else s.chips.rowOut } := by
  obtain ⟨p, v⟩ := w
  cases v with
  | false => simp [Pins.rises]
  | true =>
    cases p with
    | data | oeN => simp [Chips.edge]
    | clkCol => cases h : s.pins.clkCol <;> simp [Pins.rises, Pins.get, Chips.edge, h]
    | clkRow => cases h : s.pins.clkRow <;> simp [Pins.rises, Pins.get, Chips.edge, h]
    | latch => cases h : s.pins.latch <;> simp [Pins.rises, Pins.get, Chips.edge, h]

/-- What a shift register holds after an edge, bit by bit (rules R86, R87). -/
theorem bits_shiftIn (d : Bit) (r : Byte) :
    (shiftIn d r).getLsbD 7 = d ∧ ∀ j, j < 7 → (shiftIn d r).getLsbD j = r.getLsbD (j + 1) :=
  ⟨(getLsbD_shiftIn d r 7).trans (by simp), fun j hj => (getLsbD_shiftIn d r j).trans (if_pos hj)⟩

/-- Settles O26: the chip's two registers after one write, and after the whole SCOL. -/
theorem columnChipReceivesTheByte : Obligations.ColumnChipReceivesTheByte := by
  refine ⟨fun s w => ?write, fun c b s hlatch => ?transfer⟩
  case write =>
    rw [State.pinWrite_chips_eq]
    exact ⟨fun h => by simpa only [if_pos h] using bits_shiftIn _ _, fun h => if_neg h, fun h => if_pos h,
      fun h => if_neg h⟩
  case transfer => simp [State.scol_eq, hlatch]

/-- Settles O27: the chip's two registers after one write, after the whole SROW, and at the LATCH edge of an SCOL. -/
theorem rowChipReceivesTheByte : Obligations.RowChipReceivesTheByte := by
  refine ⟨fun s w => ?write, fun b s hclk => ?transfer, fun c b s hlatch => ?shared⟩
  case write =>
    rw [State.pinWrite_chips_eq]
    exact ⟨fun h => by simpa only [if_pos h] using bits_shiftIn _ _, fun h => if_neg h, fun h => if_pos h,
      fun h => if_neg h⟩
  case transfer =>
    rw [State.srow_eq b s hclk]
    exact ⟨rfl, rfl, Eq.symm⟩
  case shared =>
    rw [State.scol_eq]
    simp only [hlatch]
    exact ⟨rfl, Eq.symm⟩

/-! ### Pin writes that keep the display (rules R82, R88) -/

/-- What every write of a kind keeps, a sequence of such writes keeps. -/
theorem State.pinWrites_keeps {α : Type} (f : State → α) {P : PinWrite → Prop}
    (hf : ∀ (s : State) (w : PinWrite), P w → f (s.pinWrite w) = f s) {ws : List PinWrite} (h : ∀ w ∈ ws, P w)
    (s : State) : f (s.pinWrites ws) = f s := by
  induction ws generalizing s with
  | nil => rfl
  | cons w ws ih =>
    obtain ⟨hw, hws⟩ := List.forall_mem_cons.mp h
    rw [pinWrites_cons, ih hws, hf s w hw]

/-- The write reaches neither the output enable nor the chips' outputs. -/
def PinWrite.KeepsOutputs (w : PinWrite) : Prop := w.pin ≠ .oeN ∧ ¬(w.pin = .latch ∧ w.level = true)

theorem State.pinWrite_oeN (s : State) {w : PinWrite} (h : w.pin ≠ .oeN) : (s.pinWrite w).pins.oeN = s.pins.oeN := by
  obtain ⟨p, v⟩ := w
  cases p with
  | oeN => exact absurd rfl h
  | data | clkCol | clkRow | latch => rfl

theorem State.pinWrite_lit (c : Config) (s : State) {w : PinWrite} (h : w.KeepsOutputs) (i k : Fin 8) :
    (s.pinWrite w).lit c i k = s.lit c i k := by
  obtain ⟨hoe, hlatch⟩ := h
  have hrise : ¬(w.pin = .latch ∧ s.pins.latch = false ∧ w.level = true) := fun ⟨hp, _, hl⟩ => hlatch ⟨hp, hl⟩
  rw [lit, lit, s.pinWrite_oeN hoe, pinWrite_chips_eq]
  simp only [if_neg hrise]

/-- The first write of an SCOL disables the outputs; the next 26 write other pins (rule R80). -/
theorem colFrame_take_succ (c : Config) (b : Byte) {n : Nat} (hn : n < 27) :
    ∃ ws, (colFrame c b).take (n + 1) = ⟨.oeN, c.oeDisableLevel⟩ :: ws ∧ ∀ w ∈ ws, w.pin ≠ .oeN := by
  refine ⟨((colFrame c b).tail.take 26).take n, ?_, fun w hw => ?_⟩
  · rw [List.take_take, Nat.min_eq_left (by omega)]
    rfl
  · have hall : ∀ w ∈ (colFrame c b).tail.take 26, w.pin ≠ .oeN := by simp [colFrame, octet]
    exact hall w (List.mem_of_mem_take hw)

/-- Settles O23: the first write puts OE_N at the disabling level, and the writes after it leave it there. -/
theorem outputsAreBlankedDuringAColumnTransfer : Obligations.OutputsAreBlankedDuringAColumnTransfer := by
  intro c b s n hpos hn
  obtain ⟨m, rfl⟩ := Nat.exists_eq_add_of_le' hpos
  obtain ⟨ws, htake, hws⟩ := colFrame_take_succ c b (n := m) (by omega)
  have hoe : ((s.logCall (.col b)).pinWrites ((colFrame c b).take (m + 1))).pins.oeN = c.oeDisableLevel := by
    rw [htake, State.pinWrites_cons, State.pinWrites_keeps (·.pins.oeN) (fun s _ => s.pinWrite_oeN) hws]
    rfl
  exact ⟨hoe, State.lit_of_disabled hoe⟩

end Sys2Proof.Machine
end

section
/-! # 41_row_scanner.md and 70_reset_and_hazards.md: what is lit, the ghost window, the reset (O29, O30, O58, O59) -/

namespace Sys2Proof.Machine

/-! ### What is lit after a row advance (rules R88, R94) -/

/-- Settles O29: the row chip shows the mask, which selects the row, and the column chip its byte. -/
theorem advrowLightsExactlyItsRow : Obligations.AdvrowLightsExactlyItsRow := by
  intro c s hinv i k
  rw [State.lit, State.advRow_eq c s hinv.latchLow hinv.clkRowLow]
  simp only [hinv.maskIsRow, bit_maskOf]
  by_cases hk : k = State.rowOf s.ari <;> simp [hk]

/-- A TICK that logs no call has not advanced (rule R115). -/
theorem not_advances_of_callLog_eq {c : Config} {s : State} (h : (s.tick c).callLog = s.callLog) :
    ¬s.advances = true := by
  intro ha
  simp [ha] at h

/-- Settles O30: a TICK that does not advance leaves the pins, the trace and the chips, and so does every command. -/
theorem litPixelsHoldUntilTheNextAdvrow : Obligations.LitPixelsHoldUntilTheNextAdvrow := by
  intro c s t h hreset hlog
  have hlit {u : State} (hpins : u.pins = s.pins) (hchips : u.chips = s.chips) (i k : Fin 8) :
      u.lit c i k = s.lit c i k := by rw [State.lit, State.lit, hpins, hchips]
  cases stepsTo_of_stepWith h with
  | tick es =>
    rw [State.setEvents_callLog] at hlog
    have hscan := State.sameScan_tick_of_not_advances c (not_advances_of_callLog_eq hlog)
    refine ⟨?_, hlit ?_ ?_⟩
    · rw [State.setEvents_pinTrace, hscan.pinTrace, State.setTsra_pinTrace]
    · rw [State.setEvents_pins, hscan.pins, State.setTsra_pins]
    · rw [State.setEvents_chips, hscan.chips, State.setTsra_chips]
  | command w i es t hev hd hx =>
    have hframe := exec_hostFrame hx
    exact ⟨hframe.pinTrace, hlit hframe.pins hframe.chips⟩
  | reset a es hev => exact absurd hev (hreset a es)
  | idle | btn | adc => exact ⟨rfl, hlit rfl rfl⟩

/-! ### The ghost window (rule R180) -/

theorem rowFrame_take_keepsOutputs (b : Byte) {n : Nat} (hn : n ≤ 25) :
    ∀ w ∈ (rowFrame b).take n, w.KeepsOutputs := by
  have hall : ∀ w ∈ (rowFrame b).take 25, w.KeepsOutputs := by simp [rowFrame, octet, PinWrite.KeepsOutputs]
  intro w hw
  rw [← Nat.min_eq_left hn, ← List.take_take] at hw
  exact hall w (List.mem_of_mem_take hw)

theorem rowFrame_drop_keepsOutputs (b : Byte) {n : Nat} (hn : 26 ≤ n) :
    ∀ w ∈ (rowFrame b).drop n, w.KeepsOutputs := by
  have hall : ∀ w ∈ (rowFrame b).drop 26, w.KeepsOutputs := by simp [rowFrame, octet, PinWrite.KeepsOutputs]
  intro w hw
  obtain ⟨m, rfl⟩ := Nat.exists_eq_add_of_le hn
  rw [← List.drop_drop] at hw
  exact hall w (List.mem_of_mem_drop hw)

/-- Up to write 25 an SROW shows what was lit before it. -/
theorem lit_pinWrites_rowFrame_take (c : Config) (u : State) (b : Byte) {n : Nat} (hn : n ≤ 25) (i k : Fin 8) :
    (u.pinWrites ((rowFrame b).take n)).lit c i k = u.lit c i k :=
  State.pinWrites_keeps (·.lit c i k) (fun s _ hw => s.pinWrite_lit c hw i k) (rowFrame_take_keepsOutputs b hn) u

/-- From write 26 on an SROW shows what is lit at its end. -/
theorem lit_pinWrites_rowFrame_of_latched (c : Config) (u : State) (b : Byte) {n : Nat} (hn : 26 ≤ n) (i k : Fin 8) :
    (u.pinWrites ((rowFrame b).take n)).lit c i k = (u.pinWrites (rowFrame b)).lit c i k := by
  have hsplit : u.pinWrites (rowFrame b) = (u.pinWrites ((rowFrame b).take n)).pinWrites ((rowFrame b).drop n) := by
    rw [← State.pinWrites_append, List.take_append_drop]
  rw [hsplit]
  exact (State.pinWrites_keeps (·.lit c i k) (fun s _ hw => s.pinWrite_lit c hw i k)
    (rowFrame_drop_keepsOutputs b hn) _).symm

/-- An ADVROW lights what its two transfers light (rule R90). -/
theorem State.lit_advRow (c : Config) (s : State) (i k : Fin 8) :
    (s.advRow c).lit c i k = ((s.scol c (s.memRead (rowOf s.ari))).srow s.arm).lit c i k := by
  obtain ⟨hpins, hchips⟩ := s.advRow_transfers c
  rw [lit, lit, hpins, hchips]

/-- Settles O58: the LATCH edge of the SCOL has put the new byte beside the previous mask; the one of the SROW puts
the new mask there, as at the end of the ADVROW. -/
theorem ghostWindowShowsThePreviousRow : Obligations.GhostWindowShowsThePreviousRow := by
  intro c s hinv hrsr
  refine ⟨fun n hn i k => ?ghost, fun n hn i k => ?settled⟩
  case ghost =>
    rw [lit_pinWrites_rowFrame_take c _ _ hn, State.scol_eq]
    simp [State.lit, hinv.latchLow, hrsr, bit_maskOf]
  case settled =>
    rw [lit_pinWrites_rowFrame_of_latched c _ _ hn]
    refine (State.lit_advRow c s i k).symm.trans ((advrowLightsExactlyItsRow c s hinv i k).trans ?_)
    by_cases hk : k = State.rowOf s.ari <;> simp [hk]

/-! ### The reset (rule R170) -/

/-- Settles O59: a reset differs from one between steps in the chips alone, which have seen the first of the TICK's
writes; the whole list moves them as the whole TICK does. -/
theorem resetAbandonsTheStepInProgress : Obligations.ResetAbandonsTheStepInProgress := by
  intro c s es a hev
  refine ⟨_, (stepWith_reset c hev).trans (congrArg _ (State.resetBlock_abandon c a _)), rfl, rfl, rfl,
    State.lit_of_disabled rfl, ?_, ?_⟩
  · rintro n rfl
    have hchips (ws : List PinWrite) : ((s.setEvents es).pinWrites ws).chips = (s.pinWrites ws).chips :=
      (State.pinWrites_wire ws (s := s) (t := s.setEvents es) rfl rfl).2
    refine ⟨s.tick_pinTrace_writes c, hchips _, fun hn => ?_⟩
    rw [(s.tick_wire c).2, ← hchips (s.tickWrites c), ← List.take_of_length_le hn]
    exact rfl
  · intro hnot
    cases a with
    | tick n => exact absurd rfl (hnot n)
    | nothing | command => rfl

end Sys2Proof.Machine
end

section
/-! # 42_input_sampler.md: two WASPRs, one press, one rise (O36, O40, O41) -/

namespace Sys2Proof.Machine

/-! ### A flag that is 0 stays 0 (rules R27, R112) -/

/-- A step that latches nothing on the channel leaves its flag 0; a reset clears it. -/
theorem stepWith_keeps_le_false {c : Config} {s t : State} {k : Fin 6} (hs : s.le[k] = false)
    (hquiet : ¬LatchesNext c k s) (h : stepWith c s = .next t) : t.le[k] = false := by
  by_cases hr : ∃ a es, s.events = .reset a :: es
  · obtain ⟨a, es, hev⟩ := hr
    cases (stepWith_reset c hev).symm.trans h
    exact reset_le k
  · rw [← Bool.not_eq_true, stepWith_le_iff h (fun a es hev => hr ⟨a, es, hev⟩) k]
    simp [hquiet, hs]

theorem execAll_keeps_le_false {is : List Instr} {s t : State} {k : Fin 6} (hs : s.le[k] = false)
    (h : execAll is s = .next t) : t.le[k] = false := by
  induction is generalizing s with
  | nil => cases h; exact hs
  | cons i is ih =>
    obtain ⟨u, hu⟩ := exec_ends i s
    rw [execAll, hu] at h
    refine ih ?_ h
    rw [← Bool.not_eq_true, exec_le_iff hu k]
    simp [hs]

theorem waspr_resp {ch : IndexField} {k : Fin 6} (hch : ch.toNat = k.val) {s t : State}
    (h : exec (.waspr ch) s = .next t) : t.resp = some (zext16Bit s.le[k]) ∧ t.le[k] = false := by
  cases (exec_waspr hch s).symm.trans h
  simp

/-- Settles O36: the first WASPR leaves the flag 0, and nothing between the two sets it. -/
theorem secondWasprAnswersZero : Obligations.SecondWasprAnswersZero := by
  refine ⟨fun c k ch s t u v n hch ht hrun hv => ?steps, fun ch s t u v is ht hrun hv => ?commands⟩
  case steps =>
    obtain ⟨hresp, hclear⟩ := waspr_resp hch ht
    have hu : u.le[k] = false := quietRun_keeps c k (·.le[k] = false) (fun _ _ => stepWith_keeps_le_false) n hclear hrun
    refine ⟨hresp.trans (by rw [zext16Bit_eq]), ?_⟩
    rw [(waspr_resp hch hv).1, hu]
    rfl
  case commands =>
    rcases channel_field_cases ch with ⟨k, -, hk⟩ | ⟨-, hout⟩
    · have hu : u.le[k] = false := execAll_keeps_le_false (waspr_resp hk.symm ht).2 hrun
      rw [(waspr_resp hk.symm hv).1, hu]
      rfl
    · cases (exec_waspr_of_le hout u).symm.trans hv
      rfl

/-! ### One press (rule R110) -/

/-- A SAMPLE with the channel at level `new` remembers the level, and latches a press edge (rules R100, R102). -/
theorem sample_setBtn {s : State} {k : Fin 5} {old flag : Bit} (new : Bit) (hraw : s.raw[k] = old)
    (hle : s.le[digitalAsChannel k] = flag) : (s.setBtn k new).sample.raw[k] = new ∧
      (s.setBtn k new).sample.le[digitalAsChannel k] = (flag || pressEdge old new) := by
  refine ⟨by simp, ?_⟩
  rw [State.sample_le_digital, State.setBtn_le, State.setBtn_raw, hraw, hle]
  simp

/-- The field of a digital channel names it among the six (rule R104). -/
theorem toNat_digital_field (k : Fin 5) : (BitVec.ofNat 4 k : IndexField).toNat = (digitalAsChannel k).val := by
  revert k; decide

/-- Settles O40: the flag after each SAMPLE, from the level and the flag that the one before left; the WASPR clears the
flag and keeps the level. -/
theorem onePressGivesOneEvent : Obligations.OnePressGivesOneEvent := by
  intro k s hraw hle s1 s2 s3 s4 s5
  obtain ⟨hraw1, hle1⟩ := sample_setBtn true hraw hle
  obtain ⟨hraw2, hle2⟩ := sample_setBtn true hraw1 hle1
  obtain ⟨hraw3, hle3⟩ := sample_setBtn false hraw2 hle2
  obtain ⟨hraw4, hle4⟩ := sample_setBtn false hraw3 hle3
  obtain ⟨-, hle5⟩ := sample_setBtn true hraw4 hle4
  obtain ⟨u, hu⟩ := exec_ends (.waspr (BitVec.ofNat 4 k)) s3
  obtain ⟨hresp, hclear⟩ := waspr_resp (toNat_digital_field k) hu
  have hrawU : u.raw[k] = false := by rw [(exec_hostFrame hu).raw]; exact hraw3
  obtain ⟨hrawU4, hleU4⟩ := sample_setBtn false hrawU hclear
  obtain ⟨-, hleU5⟩ := sample_setBtn true hrawU4 hleU4
  exact ⟨hle1, hle2, hle3, hle4, hle5, u, hu, hresp.trans (by rw [hle3]; rfl), hclear, hleU4, hleU5⟩

/-! ### One rise (rule R111) -/

/-- A SAMPLE of the reading `a` remembers it, leaves the threshold, and latches a rise (rules R101, R102). -/
theorem sample_setAdc {s : State} {asamp : Reading} {ath : Threshold} {flag : Bit} (a : Reading)
    (hath : s.ath = ath) (hasamp : s.asamp = asamp) (hle : s.le[analogChannel] = flag) :
    (s.setAdc a).sample.ath = ath ∧ (s.setAdc a).sample.asamp = a ∧
      (s.setAdc a).sample.le[analogChannel] = (flag || riseReached asamp ath a) := by
  refine ⟨by simpa using hath, by simp, ?_⟩
  rw [State.sample_le_analog, State.setAdc_le, State.setAdc_asamp, State.setAdc_ath, State.setAdc_adc, hath, hasamp,
    hle]

/-- Settles O41: the flag after each SAMPLE, from the reading and the flag that the one before left. -/
theorem riseOfThreeHundredLatches : Obligations.RiseOfThreeHundredLatches := by
  intro s hath hasamp hle
  obtain ⟨hath1, hasamp1, hle1⟩ := sample_setAdc 100 hath hasamp hle
  obtain ⟨hath2, hasamp2, hle2⟩ := sample_setAdc 150 hath1 hasamp1 hle1
  obtain ⟨-, hasamp3, hle3⟩ := sample_setAdc 500 hath2 hasamp2 hle2
  exact ⟨hle1, hle2, hle3, hasamp3⟩

end Sys2Proof.Machine
end

section
/-! # 41_row_scanner.md and 43_tick_dispatcher.md: row periods (O31, O43, O44, O47, O48) -/

namespace Sys2Proof.Machine

/-! ### What every TICK of a run keeps -/

namespace State

theorem ticks_keeps {c : Config} {P : State → Prop} (hP : ∀ s, P s → P (s.tick c)) (n : Nat) {s : State} (h : P s) :
    P (s.ticks c n) := by
  induction n with
  | zero => exact h
  | succ n ih => rw [ticks_succ]; exact hP _ ih

theorem ticks_value {α : Type} {c : Config} (f : State → α) (hf : ∀ s, f (s.tick c) = f s) (n : Nat) (s : State) :
    f (s.ticks c n) = f s :=
  ticks_keeps (P := fun u => f u = f s) (fun u hu => (hf u).trans hu) n rfl

@[simp] theorem ticks_cf (c : Config) (n : Nat) (s : State) : (s.ticks c n).cf = s.cf :=
  ticks_value State.cf (tick_cf c) n s
@[simp] theorem ticks_btn (c : Config) (n : Nat) (s : State) : (s.ticks c n).btn = s.btn :=
  ticks_value State.btn (tick_btn c) n s
@[simp] theorem ticks_adc (c : Config) (n : Nat) (s : State) : (s.ticks c n).adc = s.adc :=
  ticks_value State.adc (tick_adc c) n s
@[simp] theorem ticks_ath (c : Config) (n : Nat) (s : State) : (s.ticks c n).ath = s.ath :=
  ticks_value State.ath (tick_ath c) n s

@[simp] theorem ticks_memRead (c : Config) (n : Nat) (s : State) (k : Fin 8) :
    (s.ticks c n).memRead k = s.memRead k := by
  rw [memRead, memRead, ticks_cf]

end State

/-! ### The scan inside a row period and at its end (rules R115, R116) -/

theorem SameScan.trans {s t u : State} (h : SameScan s t) (h' : SameScan t u) : SameScan s u where
  cf := h'.cf.trans h.cf
  ari := h'.ari.trans h.ari
  arm := h'.arm.trans h.arm
  tsra := h'.tsra.trans h.tsra
  rp := h'.rp.trans h.rp
  rpp := h'.rpp.trans h.rpp
  pins := h'.pins.trans h.pins
  pinTrace := h'.pinTrace.trans h.pinTrace
  callLog := h'.callLog.trans h.callLog
  chips := h'.chips.trans h.chips

theorem advances_setTsra_iff (s : State) (n : Period) : (s.setTsra n).advances = true ↔ n + 1 = s.rp :=
  decide_eq_true_iff

/-- Before TSRA reaches RP the TICKs count TSRA and change nothing else of the scan. -/
theorem sameScan_ticks_of_lt (c : Config) {s : State} {n : Nat} (h : s.tsra.toNat + n < s.rp.toNat) :
    SameScan (s.setTsra (s.tsra + BitVec.ofNat 12 n)) (s.ticks c n) := by
  induction n with
  | zero => constructor <;> simp [State.ticks]
  | succ n ih =>
    have hstay : ¬(s.setTsra (s.tsra + BitVec.ofNat 12 n)).advances = true := by
      rw [advances_setTsra_iff]
      bv_omega
    have hcount := State.sameScan_tick_of_not_advances c hstay
    have hnext : s.tsra + BitVec.ofNat 12 n + 1 = s.tsra + BitVec.ofNat 12 (n + 1) := by bv_omega
    rw [State.setTsra_tsra, hnext] at hcount
    rw [State.ticks_succ]
    exact hcount.trans ((ih (by omega)).tick c)

/-- One row advance of the scan, with its period ended (rules R90, R115). -/
structure RowSent (c : Config) (s t : State) : Prop where
  callLog : t.callLog = s.callLog ++ [.col (s.memRead (State.rowOf s.ari)), .row s.arm]
  pinTrace : t.pinTrace = s.pinTrace ++ (colFrame c (s.memRead (State.rowOf s.ari)) ++ rowFrame s.arm)
  ari : t.ari = s.ari + 1
  tsra : t.tsra = 0
  rp : t.rp = s.rpp
  rpp : t.rpp = s.rpp

/-- When TSRA reaches RP the row is sent, and was not before. -/
theorem rowSent_ticks (c : Config) {s : State} {n : Nat} (hbelow : s.tsra < s.rp)
    (h : s.tsra.toNat + n = s.rp.toNat) : RowSent c s (s.ticks c n) := by
  obtain ⟨m, rfl⟩ : ∃ m, n = m + 1 := Nat.exists_eq_succ_of_ne_zero (by bv_omega)
  have hlast := (sameScan_ticks_of_lt c (n := m) (s := s) (by omega)).tick c
  rw [← State.ticks_succ] at hlast
  have hadv : (s.setTsra (s.tsra + BitVec.ofNat 12 m)).advances = true := by
    rw [advances_setTsra_iff]
    bv_omega
  constructor
  case callLog => rw [hlast.callLog, State.tick_callLog, if_pos hadv]; rfl
  case pinTrace => rw [hlast.pinTrace, State.tick_pinTrace, if_pos hadv]; rfl
  case ari => rw [hlast.ari, State.tick_ari, if_pos hadv]; rfl
  case tsra => rw [hlast.tsra, State.tick_tsra, State.countNext, if_pos hadv]
  case rp => rw [hlast.rp, State.tick_rp, State.periodNext, if_pos hadv]; rfl
  case rpp => rw [hlast.rpp, State.tick_rpp]; rfl

/-! ### The sampler inside a row period (rule R117) -/

/-- The sampler's registers agree. -/
structure SameSampler (s t : State) : Prop where
  raw : t.raw = s.raw
  asamp : t.asamp = s.asamp
  le : t.le = s.le

/-- A SAMPLE reads the sampler, the inputs and ATH (rules R100 to R102). -/
theorem SameSampler.sample {s t : State} (h : SameSampler s t) (hbtn : t.btn = s.btn) (hadc : t.adc = s.adc)
    (hath : t.ath = s.ath) : SameSampler s.sample t.sample where
  raw := by rw [State.sample_raw, State.sample_raw, hbtn]
  asamp := by rw [State.sample_asamp, State.sample_asamp, hadc]
  le := State.sample_le_congr h.le h.raw hbtn h.asamp hath hadc

theorem SameSampler.trans {s t u : State} (h : SameSampler s t) (h' : SameSampler t u) : SameSampler s u :=
  ⟨h'.raw.trans h.raw, h'.asamp.trans h.asamp, h'.le.trans h.le⟩

theorem sameSampler_tick (c : Config) (s : State) : SameSampler (if s.samples then s.sample else s) (s.tick c) := by
  by_cases h : s.samples <;> constructor <;> simp [State.tick_eq, h]

/-- In a row period of at least two TICKs the SAMPLE of the inputs runs at the middle one and at no other before the
row advance. -/
theorem sameSampler_ticks (c : Config) {s : State} (htsra : s.tsra = 0) (htwo : 2 ≤ s.rp.toNat) {n : Nat}
    (hn : n < s.rp.toNat) : SameSampler (if s.rp.toNat / 2 ≤ n then s.sample else s) (s.ticks c n) := by
  induction n with
  | zero =>
    rw [if_neg (by omega)]
    exact ⟨rfl, rfl, rfl⟩
  | succ n ih =>
    have hbefore := ih (by omega)
    have hscan := sameScan_ticks_of_lt c (n := n + 1) (s := s) (by simpa [htsra] using hn)
    have hsamples : (s.ticks c n).samples = true ↔ n + 1 = s.rp.toNat / 2 := by
      rw [State.samples_iff_half c, ← State.ticks_succ, hscan.tsra, hscan.rp]
      simp only [State.setTsra_tsra, State.setTsra_rp, htsra]
      bv_omega
    have hlast := sameSampler_tick c (s.ticks c n)
    rw [← State.ticks_succ] at hlast
    by_cases hmid : n + 1 = s.rp.toNat / 2
    · rw [if_neg (by omega)] at hbefore
      rw [if_pos (hsamples.mpr hmid)] at hlast
      rw [if_pos (by omega)]
      exact (hbefore.sample (by simp) (by simp) (by simp)).trans hlast
    · rw [if_neg (mt hsamples.mp hmid)] at hlast
      have hsame : s.rp.toNat / 2 ≤ n + 1 ↔ s.rp.toNat / 2 ≤ n := by omega
      simp only [hsame]
      exact hbefore.trans hlast

/-- Settles O43: the scan and the sampler inside the period, and the row sent at its end. -/
theorem oneAdvrowAndOneSampleInARowPeriod : Obligations.OneAdvrowAndOneSampleInARowPeriod := by
  refine fun c s hinv htsra => ⟨fun n hn => ?inside, ?close, fun htwo n hn => ⟨fun hlt => ?idle, fun hge => ?sampled⟩⟩
  case inside =>
    have hscan := sameScan_ticks_of_lt c (n := n) (s := s) (by simpa [htsra] using hn)
    refine ⟨hscan.callLog, hscan.pinTrace, hscan.ari, ?_, hscan.rp⟩
    rw [hscan.tsra, State.setTsra_tsra, htsra]
    bv_omega
  case close =>
    have hsent := rowSent_ticks c (n := s.rp.toNat) hinv.tsraBelow (by simp [htsra])
    exact ⟨hinv.maskIsRow ▸ hsent.callLog, hsent.ari, hsent.tsra, hsent.rp⟩
  case idle =>
    have h := sameSampler_ticks c htsra htwo hn
    rw [if_neg (by omega)] at h
    exact ⟨h.raw, h.asamp, h.le⟩
  case sampled =>
    have h := sameSampler_ticks c htsra htwo hn
    rw [if_pos hge] at h
    exact ⟨h.raw.trans s.sample_raw, h.asamp.trans s.sample_asamp, h.le⟩

/-- Settles O47: SETRP writes RPP alone, so the old period runs to its end, where RP takes RPP. -/
theorem setrpWaitsForTheRowAdvance : Obligations.SetrpWaitsForTheRowAdvance := by
  intro c p s t hinv hx
  cases hx
  refine ⟨fun n hn => ?inside, fun n hn => ?close⟩
  case inside =>
    have hscan := sameScan_ticks_of_lt c (s := (s.setRpp (clampPeriod p)).noResponse) hn
    refine ⟨hscan.callLog, hscan.rp, ?_⟩
    rw [hscan.tsra]
    simp only [State.setTsra_tsra, State.noResponse_tsra, State.setRpp_tsra]
    bv_omega
  case close =>
    have hsent := rowSent_ticks c (s := (s.setRpp (clampPeriod p)).noResponse) hinv.tsraBelow hn
    exact ⟨hsent.callLog, hsent.tsra, hsent.rp⟩

/-! ### Row periods of one TICK (rule R118) -/

theorem checks_match_of_period_one {t : State} (hinv : t.Inv) (hrp : t.rp = 1) (hrpp : t.rpp = 1) :
    t.advances = true ∧ t.samples = true := by
  have htsra : t.tsra = 0 := by
    have hbelow := hinv.tsraBelow
    rw [hrp] at hbelow
    bv_omega
  have hadv : t.advances = true := by simp [State.advances, htsra, hrp]
  exact ⟨hadv, by simp [State.samples, State.countNext, State.periodNext, hadv, hrpp]⟩

/-- Settles O44: the invariant and the period 1 hold at every TICK of the run, and make both checks match. -/
theorem periodOneAdvancesAndSamplesEveryTick : Obligations.PeriodOneAdvancesAndSamplesEveryTick := by
  intro c s hinv hrp hrpp n t
  have hone : t.rp = 1 ∧ t.rpp = 1 := by
    refine State.ticks_keeps (P := fun u => u.rp = 1 ∧ u.rpp = 1) (fun u ⟨hu, hup⟩ => ?_) n ⟨hrp, hrpp⟩
    simp [State.periodNext, hu, hup]
  have ht : t.Inv := hinv.ticks c n
  obtain ⟨hadv, hsam⟩ := checks_match_of_period_one ht hone.1 hone.2
  refine ⟨?log, ?registers⟩
  case log => rw [State.tick_callLog, if_pos hadv, ← ht.maskIsRow, State.ticks_memRead]
  case registers => simp [hadv, hsam, State.tick_le, State.countNext, State.periodNext, hone.2, t]

/-! ### Several row periods (rules R92, R93, R126) -/

/-- The calls of `m` row periods that start at row ARI: byte and mask of each row, in rising order. -/
def rowCalls (s : State) (m : Nat) : List Call :=
  (List.range m).flatMap fun j =>
    [.col (s.memRead (State.rowOf (s.ari + BitVec.ofNat 3 j))), .row (maskOf (s.ari + BitVec.ofNat 3 j))]

theorem rowCalls_succ (s : State) (m : Nat) : rowCalls s (m + 1) = rowCalls s m ++
    [.col (s.memRead (State.rowOf (s.ari + BitVec.ofNat 3 m))), .row (maskOf (s.ari + BitVec.ofNat 3 m))] := by
  simp [rowCalls, List.range_succ]

/-- The scan after `m` whole row periods, all of one length. -/
structure RowsSent (s : State) (m : Nat) (t : State) : Prop where
  callLog : t.callLog = s.callLog ++ rowCalls s m
  traceLength : t.pinTrace.length = s.pinTrace.length + 55 * m
  ari : t.ari = s.ari + BitVec.ofNat 3 m
  tsra : t.tsra = 0
  rp : t.rp = s.rp
  rpp : t.rpp = s.rp

/-- Every period of RP TICKs sends the next row, with 28 + 27 pin writes. -/
theorem rowsSent_ticks (c : Config) {s : State} (hinv : s.Inv) (htsra : s.tsra = 0) (hrpp : s.rpp = s.rp) (m : Nat) :
    RowsSent s m (s.ticks c (m * s.rp.toNat)) := by
  induction m with
  | zero => constructor <;> simp [State.ticks, rowCalls, htsra, hrpp]
  | succ m ih =>
    rw [Nat.succ_mul, State.ticks_add]
    have ht := hinv.ticks c (m * s.rp.toNat)
    have hsent := rowSent_ticks c (n := s.rp.toNat) ht.tsraBelow (by simp [ih.tsra, ih.rp])
    constructor
    case callLog =>
      rw [hsent.callLog, ht.maskIsRow, ih.ari, State.ticks_memRead, ih.callLog, rowCalls_succ, List.append_assoc]
    case traceLength => simp [hsent.pinTrace, ih.traceLength]; omega
    case ari => rw [hsent.ari, ih.ari, BitVec.ofNat_add, BitVec.add_assoc]; rfl
    case tsra => exact hsent.tsra
    case rp => exact hsent.rp.trans ih.rpp
    case rpp => exact hsent.rpp.trans ih.rpp

/-- Settles O31: eight row periods, after which the row index has wrapped. -/
theorem eightRowPeriodsSendTheFrameOnce : Obligations.EightRowPeriodsSendTheFrameOnce := by
  intro c s hinv htsra hrpp t
  have hrows : RowsSent s 8 t := rowsSent_ticks c hinv htsra hrpp 8
  have hari : t.ari = s.ari := hrows.ari.trans (BitVec.add_zero s.ari)
  have harm : t.arm = s.arm := by rw [(hinv.ticks c _).maskIsRow, hari, hinv.maskIsRow]
  exact ⟨hrows.callLog, hari, harm, hrows.tsra, hrows.rp, hrows.traceLength⟩

/-- Settles O48: eight periods of 50 TICKs, with the rows and masks of the dark frame computed. -/
theorem fourHundredTicksFromReset : Obligations.FourHundredTicksFromReset := by
  obtain ⟨hlog, hari, harm, htsra, -, hlength⟩ :=
    eightRowPeriodsSendTheFrameOnce Config.lmrs State.reset resetMeetsTheInvariant.1 rfl rfl
  exact ⟨hlog, hlength, hari, harm, htsra, State.ticks_bzt Config.lmrs 400 State.reset⟩

end Sys2Proof.Machine
end

section
/-! # 44_frame_ops.md and the whole machine: the frame committed, PB without the TICKs, the scan without the inputs
(O51, O54, O56, O57) -/

namespace Sys2Proof.Machine

/-! ### The frame of a COMMIT (rules R136, R137) -/

/-- In canonical form the frame a COMMIT leaves is a function of PB, as data (rules R41, R132). -/
theorem State.commitRows_cf_congr {s t : State} (hs : Memory.wf s.cf = true) (ht : Memory.wf t.cf = true)
    (hpb : s.pb = t.pb) : s.commitRows.cf = t.commitRows.cf := by
  have hwf := wf_commitRows hs
  have hwf' := wf_commitRows ht
  refine Memory.eq_of_wf hwf hwf' fun a => ?_
  by_cases ha : a < 8
  · exact (s.memRead_commitRows ⟨a, ha⟩).trans ((packedRow_congr hpb _).trans (t.memRead_commitRows ⟨a, ha⟩).symm)
  · have hpast : 8 ≤ a := Nat.not_lt.mp ha
    exact (Memory.read_past hwf hpast).trans (Memory.read_past hwf' hpast).symm

/-- Settles O51: both COMMITs pack the same pixels. -/
theorem commitIsIdempotent : Obligations.CommitIsIdempotent := by
  intro s t u v hwf ht hpb hcf hv
  cases (execCommit_eq s).symm.trans ht
  cases (execCommit_eq u).symm.trans hv
  rw [State.noResponse_cf] at hcf
  rw [State.noResponse_pb, State.commitRows_frame, State.setCf_pb] at hpb
  rw [State.noResponse_cf, State.noResponse_cf]
  exact State.commitRows_cf_congr (hcf ▸ State.wf_commitRows hwf) hwf hpb

theorem execAll_append (is js : List Instr) {s t : State} (h : execAll is s = .next t) :
    execAll (is ++ js) s = execAll js t := by
  induction is generalizing s with
  | nil => cases h; rfl
  | cons i is ih =>
    obtain ⟨u, hu⟩ := exec_ends i s
    rw [List.cons_append, execAll, hu]
    rw [execAll, hu] at h
    exact ih h

/-- All eight rows written: every pixel is its row's bit (rule R135). -/
theorem State.pixel_setPixelRows_octet (s : State) (f : Fin 8 → Byte) (i k : Fin 8) :
    (s.setPixelRows octet f).pixel i k = (f k).getLsbD i := by
  simp only [octet, setPixelRows_cons, setPixelRows_nil, pixel_setPixelRow]
  fin_cases k <;> simp

theorem State.setPixelRows_noResponse_cf (s : State) (ks : List (Fin 8)) (f : Fin 8 → Byte) :
    (s.setPixelRows ks f).noResponse.cf = s.cf := by
  rw [noResponse_cf, setPixelRows_frame, setPb_cf]

theorem execAll_commit (s : State) : execAll [.commit] s = .next s.commitRows.noResponse := rfl

/-- Settles O54: the eight LDROWs write PB alone, and the COMMIT packs the bytes they wrote. -/
theorem ldfrmThenCommitIsTheFrame : Obligations.LdfrmThenCommitIsTheFrame := by
  intro b s
  have hload := execAll_ldfrm b s
  refine ⟨⟨_, hload, State.setPixelRows_noResponse_cf s octet _⟩, _,
    (execAll_append (ldfrm b) [.commit] hload).trans (execAll_commit _), fun k => ?_⟩
  rw [State.memRead_noResponse, State.memRead_commitRows]
  apply State.packedRow_eq_of_pixel
  intro i
  rw [State.pixel_noResponse, State.pixel_setPixelRows_octet]

/-! ### The pixel buffer without the TICKs (rule R140) -/

/-- What a command leaves in PB depends on PB alone (rules R130 to R135). -/
theorem exec_pb_congr {i : Instr} {s s' t t' : State} (h : s'.pb = s.pb) (hx : exec i s = .next t)
    (hx' : exec i s' = .next t') : t'.pb = t.pb := by
  have hpixel (j k : Fin 8) : s'.pixel j k = s.pixel j k := by rw [State.pixel, State.pixel, h]
  cases i with
  | setpx x y v =>
    obtain ⟨g, hg, hgp⟩ := exec_setpx x y v s
    obtain ⟨g', hg', hgp'⟩ := exec_setpx x y v s'
    cases hg.symm.trans hx
    cases hg'.symm.trans hx'
    exact State.pb_eq_of_pixel (s := s'.setPb g') (t := s.setPb g) fun j k => by rw [hgp, hgp', hpixel]
  | ldrow k b =>
    obtain ⟨g, hg, hgp⟩ := exec_ldrow k b s
    obtain ⟨g', hg', hgp'⟩ := exec_ldrow k b s'
    cases hg.symm.trans hx
    cases hg'.symm.trans hx'
    exact State.pb_eq_of_pixel (s := s'.setPb g') (t := s.setPb g) fun j k => by rw [hgp, hgp', hpixel]
  | clrall | fillall => cases hx; cases hx'; rfl
  | commit | waspr | isheld | alevel | setthr | setrp =>
    rw [(exec_pb hx).resolve_right (by simp), (exec_pb hx').resolve_right (by simp), h]

/-- `s'` has the pixel buffer of `s`, and its events but for the TICKs. -/
structure SameDrawing (s s' : State) : Prop where
  pb : s'.pb = s.pb
  events : s'.events = dropTicks s.events

theorem stepWith_cons (c : Config) {s : State} {e : Event} {es : List Event} (hev : s.events = e :: es) :
    stepWith c s = perform c e (s.setEvents es) := by
  rw [stepWith, hev]

/-- A reset stays a reset when the TICKs are taken out, whatever it abandons. -/
theorem dropTicks_reset (a : Abandoned) (es : List Event) :
    ∃ a', dropTicks (.reset a :: es) = .reset a' :: dropTicks es := by
  cases a with
  | tick n => exact ⟨.nothing, rfl⟩
  | nothing => exact ⟨.nothing, rfl⟩
  | command i => exact ⟨.command i, rfl⟩

/-- A TICK needs no step where the TICKs are taken out; every other event is the same one step there. -/
theorem SameDrawing.step {c : Config} {s s' t : State} (hs : SameDrawing s s') (h : stepWith c s = .next t) :
    ∃ t', (t' = s' ∨ stepWith c s' = .next t') ∧ SameDrawing t t' := by
  have hev' := hs.events
  cases stepsTo_of_stepWith h with
  | idle => exact ⟨s', .inl rfl, hs⟩
  | tick es hev =>
    refine ⟨s', .inl rfl, ?_, ?_⟩
    · rw [State.setEvents_pb, State.tick_pb, hs.pb]
    · rw [State.setEvents_events, hev']
      rcases hev with hev | ⟨w, es', hev, rfl⟩ <;> rw [hev] <;> rfl
  | command w i es t hev hd hx =>
    rw [hev] at hev'
    obtain ⟨t', hx'⟩ := exec_ends i (s'.setEvents (dropTicks es))
    refine ⟨t', .inr ((stepWith_command c hev' hd).trans hx'), exec_pb_congr ?_ hx hx', ?_⟩
    · exact hs.pb
    · rw [exec_events hx', exec_events hx]
      rfl
  | btn k v es hev =>
    rw [hev] at hev'
    exact ⟨_, .inr (stepWith_cons c hev'), hs.pb, rfl⟩
  | adc a es hev =>
    rw [hev] at hev'
    exact ⟨_, .inr (stepWith_cons c hev'), hs.pb, rfl⟩
  | reset a es hev =>
    obtain ⟨a', ha'⟩ := dropTicks_reset a es
    rw [hev, ha'] at hev'
    refine ⟨_, .inr (stepWith_reset c hev'), rfl, ?_⟩
    rw [State.resetBlock_abandon_events, State.resetBlock_abandon_events]
    rfl

/-- A run that ends is followed by a run without the TICKs that ends with the same pixel buffer. -/
theorem SameDrawing.run {c : Config} {n : Nat} {s s' t : State} (hs : SameDrawing s s')
    (h : runWith c n s = .next t) (hend : t.events = []) :
    ∃ m u, runWith c m s' = .next u ∧ u.events = [] ∧ u.pb = t.pb := by
  induction n generalizing s s' with
  | zero =>
    cases h
    exact ⟨0, s', rfl, by rw [hs.events, hend]; rfl, hs.pb⟩
  | succ n ih =>
    rw [runWith] at h
    cases hx : stepWith c s with
    | fault _ => rw [hx] at h; cases h
    | refused _ => rw [hx] at h; cases h
    | next v =>
      rw [hx] at h
      obtain ⟨v', hv', hv⟩ := hs.step hx
      obtain ⟨m, u, hu, hrest⟩ := ih hv h
      rcases hv' with rfl | hstep
      · exact ⟨m, u, hu, hrest⟩
      · exact ⟨m + 1, u, by rw [runWith, hstep]; exact hu, hrest⟩

/-- Settles O56: the same state with the TICKs taken out starts with the same drawing. -/
theorem ticksNeverChangeThePixelBuffer : Obligations.TicksNeverChangeThePixelBuffer :=
  fun c s _ _ h hend => SameDrawing.run (c := c) (s := s) (s' := s.setEvents (dropTicks s.events)) ⟨rfl, rfl⟩ h hend

/-! ### The scan without the inputs (rule R13) -/

/-- Settles O57: a TICK keeps two scans the same. -/
theorem inputsNeverReachTheDisplay : Obligations.InputsNeverReachTheDisplay :=
  fun c _ _ h => h.tick c

end Sys2Proof.Machine
end
